-- ==== Sys2Proof/Word.lean ====
section
/-! DEFINITION. The words, bytes and byte strings of NCSEQ (spec 00_scope.md R7, R8). -/

namespace Sys2Proof

/-- A word is 32 bits, bit 0 the least significant (R7). -/
abbrev Word := BitVec 32

/-- A byte is 8 bits, bit 7 the most significant (R7). -/
abbrev Byte := BitVec 8

/-- A byte string is a finite sequence of bytes, byte `k` counted from 0 (R8). -/
abbrev Bytes := List Byte

/-- A byte string of known length `n`, such as "16 bytes" in the signatures of R9. -/
abbrev BytesN (n : Nat) := List.Vector Byte n

end Sys2Proof
end

