-- ==== Sys2Proof/Config.lean ====
section
/-! DEFINITION. What the platform fixes and the spec leaves open: BASE, PRIM_AVAIL and the four
primitive functions (spec 00_scope.md R6, R9). Log 1. -/

namespace Sys2Proof

/-- The four primitive engines of R9. -/
inductive Prim where
  | md4 | md5 | sha1 | des
  deriving DecidableEq, Repr

/-- A subset of the four primitives: the values PRIM_AVAIL can take (R6). -/
structure PrimSet where
  md4  : Bool
  md5  : Bool
  sha1 : Bool
  des  : Bool
  deriving DecidableEq, Repr, Inhabited

/-- `p ∈ PRIM_AVAIL`. -/
def PrimSet.has (a : PrimSet) : Prim → Bool
  | .md4 => a.md4
  | .md5 => a.md5
  | .sha1 => a.sha1
  | .des => a.des

/-- The configuration of one block: the parameters of R6 that are OPEN, and the primitive port of
R9, whose functions are total on their domains and depend on their arguments alone.
BASE is 4096-byte aligned (R6), so the field is the page number. -/
structure Config where
  /-- BASE divided by 4096 -/
  basePage : Nat
  /-- PRIM_AVAIL -/
  avail : PrimSet
  /-- MD4(m): byte string to 16 bytes -/
  md4 : Bytes → BytesN 16
  /-- MD5(m): byte string to 16 bytes -/
  md5 : Bytes → BytesN 16
  /-- SHA1(m): byte string to 20 bytes -/
  sha1 : Bytes → BytesN 20
  /-- DES(k, p): 8-byte key, 8-byte block, to 8 bytes -/
  des : BytesN 8 → BytesN 8 → BytesN 8
  deriving Inhabited

/-- BASE, the byte address of window offset 0 on the host bus (R6). -/
def Config.base (c : Config) : Nat := 4096 * c.basePage

/-- The configuration of THIS block. It has no body: no proof can see which base, which primitives
or which digests it holds (I1, I3, D1, D14), so a statement about it holds of every configuration. -/
opaque Config.hw : Config

end Sys2Proof
end

