-- ==== Sys2Proof/Machine/Bytes.lean ====
section
/-! DEFINITION. Byte strings: concatenation, slicing, padding (spec 00_scope.md R7, R8), byte lanes of
a word (20_memory.md R63), and upper-case hexadecimal (40_stream_and_parity.md R109). -/

namespace Sys2Proof.Machine

/-- `low8(x) = x mod 256` (R7). -/
def low8 (x : Nat) : Byte := BitVec.ofNat 8 x

/-- `a ‖ b` (R8). -/
def cat {n m : Nat} (a : BytesN n) (b : BytesN m) : BytesN (n + m) :=
  ⟨a.toList ++ b.toList, by simp⟩

/-- `slice(b, lo, n)` is `b[lo], ..., b[lo+n-1]` (R8). -/
def slice {m : Nat} (b : BytesN m) (lo n : Nat) (h : lo + n ≤ m := by decide) : BytesN n :=
  ⟨(b.toList.drop lo).take n, by simp; omega⟩

/-- `take(b, n)` is `b[0], ..., b[n-1]` and requires `n <= len(b)` (R8). -/
def takeN {m : Nat} (b : BytesN m) (n : Nat) (h : n ≤ m := by decide) : BytesN n :=
  slice b 0 n (by omega)

/-- `fill(v, n)` is `n` bytes of value `v` (R8). -/
def fill (v : Byte) (n : Nat) : BytesN n := ⟨List.replicate n v, by simp⟩

/-- `zeros(n)` is `n` bytes of 0x00 (R8). -/
def zeros (n : Nat) : BytesN n := fill 0x00 n

/-- Byte lane `i` of a word: `v[8i+7 : 8i]` (R63). -/
def lane (v : Word) (i : Nat) : Byte := v.extractLsb' (8 * i) 8

/-- The word whose lanes 0 to 3 are the four bytes: `B[4j] | B[4j+1] << 8 | B[4j+2] << 16 |
B[4j+3] << 24` (R63). -/
def wordOfLanes (b0 b1 b2 b3 : Byte) : Word := b3 ++ b2 ++ b1 ++ b0

/-- One upper-case hexadecimal digit: 0 to 9 is 0x30 to 0x39, 10 to 15 is 0x41 to 0x46 (R109). -/
def hexDigit (n : Nat) : Byte := if n < 10 then low8 (0x30 + n) else low8 (0x41 + (n - 10))

/-- `HEXU(d)`: two digits a byte, high nibble first (R109). -/
def hexu : Bytes → Bytes
  | [] => []
  | b :: d => hexDigit (b.toNat / 16) :: hexDigit (b.toNat % 16) :: hexu d

end Sys2Proof.Machine
end

