-- ==== Sys2Proof/Machine/State.lean ====
section
/-! DEFINITION. The state of NCSEQ (spec 10_state.md R20), its reset value (R50), the events at its
port (20_memory.md R70), and the reasons a step can stop. Types only: what works on them stands in
the other files of Machine/. -/

namespace Sys2Proof.Machine

/-- The eight operand buffers (R32), in the order of their length registers (R31). -/
inductive Buf where
  | pw | chal | user | pchal | achal | ntresp | kin | curkey
  deriving DecidableEq, Repr

/-- The bytes of the register window that hold data: the operand buffers and OUT (R22, R32, R33), as
cells (window offset, byte), offsets strictly rising, no listed byte equal to `unlistedByte`. Log 9. -/
abbrev Memory := List Host.Cell

/-- What an unlisted offset reads as: R50 resets every byte of every buffer to 0x00. -/
def unlistedByte : Byte := 0x00

/-- The canonical form of a memory, so that equal memories are equal lists. -/
abbrev Memory.wf (m : Memory) : Prop :=
  List.Pairwise (fun x y : Host.Cell => x.1 < y.1) m ∧ ∀ c ∈ m, c.2 ≠ unlistedByte

/-- The architectural state of the block: R20, "exactly the following, and nothing else persists
between steps". The buffers PW, CHAL, USER, PCHAL, ACHAL, NTRESP, KIN, CURKEY and OUT are ranges of
`mem` (R22). -/
structure Block where
  /-- the bytes of the nine buffers -/
  mem     : Memory
  /-- ID (R30) -/
  id      : Byte
  /-- PW_LEN (R31) -/
  pwLen   : BitVec 16
  /-- CH_LEN (R31) -/
  chLen   : BitVec 16
  /-- USER_LEN (R31) -/
  userLen : BitVec 16
  /-- PC_LEN (R31) -/
  pcLen   : BitVec 16
  /-- AC_LEN (R31) -/
  acLen   : BitVec 16
  /-- NR_LEN (R31) -/
  nrLen   : BitVec 16
  /-- KIN_LEN (R31) -/
  kinLen  : BitVec 16
  /-- CK_LEN (R31) -/
  ckLen   : BitVec 16
  /-- OUT_LEN, bits 5:0 (R29) -/
  outLen  : BitVec 6
  /-- CMD, the last command word accepted (R28), the pending command while BUSY = 1 (R45) -/
  cmd     : Word
  /-- STATUS.BUSY (R26) -/
  busy    : Bool
  /-- STATUS.DONE (R26) -/
  done    : Bool
  /-- STATUS.ERR (R26) -/
  err     : Bool
  /-- STATUS.FATAL, sticky (R26) -/
  fatal   : Bool
  /-- STATUS.BWE, sticky (R26) -/
  bwe     : Bool
  /-- STATUS.ERRCODE (R26) -/
  errcode : BitVec 4
  /-- STATUS.ERROP (R26) -/
  errop   : BitVec 4
  deriving DecidableEq, Repr

/-- The reset values of R50. -/
def Block.reset : Block :=
  { mem := [], id := 0, pwLen := 0, chLen := 0, userLen := 0, pcLen := 0, acLen := 0, nrLen := 0
    kinLen := 0, ckLen := 0, outLen := 0, cmd := 0, busy := false, done := false, err := false
    fatal := false, bwe := false, errcode := 0, errop := 0 }

/-- What a host access does: read, or write a word. -/
inductive BusOp where
  | read
  | write (v : Word)
  deriving DecidableEq, Repr

/-- One host access: bus address in bytes, width in bits, direction (20_memory.md R61, R62). Log 7. -/
structure Access where
  addr  : Nat
  width : Nat
  op    : BusOp
  deriving DecidableEq, Repr

/-- What the port answers to an access. -/
inductive Reply where
  /-- the word a read returns (R64) -/
  | data (v : Word)
  /-- a write was taken, ignored or dropped: the port tells the host nothing more (log 10) -/
  | ack
  /-- bus error response: width other than 32 bits, or misaligned (R62) -/
  | busError
  /-- the address is outside the window: not an access to the block (R61; log 11) -/
  | notSelected
  deriving DecidableEq, Repr

/-- One step of one of the three agents of 00_scope.md R5. -/
inductive PortEvent where
  /-- the host makes an access -/
  | access (a : Access)
  /-- the reset input (70_reset_and_hazards.md R250) -/
  | hardReset
  /-- the sequencer is scheduled (60_exceptions.md R226, 70_reset_and_hazards.md R259) -/
  | sequencer
  deriving DecidableEq, Repr

/-- The machine: the block, and the model's own two fields that stand for the outside world (log 2,
log 5, log 18). -/
structure State where
  /-- the block's architectural state (R20) -/
  blk   : Block
  /-- the steps still to come at the port, in order: the one total order of R70 -/
  port  : List PortEvent
  /-- the port's answer to the last host access -/
  reply : Option Reply
  deriving DecidableEq, Repr

/-- The machine right after reset: the block as R50 says, nothing at the port. -/
def State.reset : State := { blk := Block.reset, port := [], reply := none }

/-- The one reason a step stops. -/
inductive Fault where
  /-- Raised by the host's step when an access inside the window is not 32 bits wide or not aligned:
  it "is answered with a bus error response to the host and has no effect on any state of the block",
  and "a model treats such an access as a fault of the host step" (20_memory.md R62). Safe: the run
  ends where the block goes on unchanged (log 6). -/
  | busError (addr width : Nat)
  deriving DecidableEq, Repr

/-- Why an instruction has no meaning. -/
inductive Refusal where
  /-- Raised by an arm of `exec` whose instruction has no meaning yet. Safe: the run stops. No arm of
  this model raises it. -/
  | notModelled (mnemonic : String)
  deriving DecidableEq, Repr

end Sys2Proof.Machine
end

