-- ==== Sys2Proof/Machine/Window.lean ====
section
/-! DEFINITION. The register window: which register or buffer stands at which offset (spec
10_state.md R22, R31, R32, R33; capacities 00_scope.md R6). -/

namespace Sys2Proof.Machine

/-- WINDOW: 4096 bytes, offsets 0x000 to 0xFFF (R6). -/
def windowSize : Nat := 4096

/-- All eight operand buffers. -/
def allBufs : List Buf := [.pw, .chal, .user, .pchal, .achal, .ntresp, .kin, .curkey]

/-- The "offset" column of R32. -/
def bufOffset : Buf → Nat
  | .pw => 0x800
  | .chal => 0x200
  | .user => 0x400
  | .pchal => 0x100
  | .achal => 0x110
  | .ntresp => 0x120
  | .kin => 0x140
  | .curkey => 0x150

/-- `CAP(B)`: the "capacity" column of R32 (PW_CAP, CH_CAP, USER_CAP, ... of R6). -/
def bufCap : Buf → Nat
  | .pw => 512
  | .chal => 256
  | .user => 256
  | .pchal => 16
  | .achal => 16
  | .ntresp => 24
  | .kin => 16
  | .curkey => 16

/-- OUT stands at offset 0x180 (R33). -/
def outOffset : Nat := 0x180

/-- OUT_CAP: 48 bytes (R6, R33). -/
def outCap : Nat := 48

/-- What a word-aligned offset of the window names (R22). -/
inductive Target where
  | blockId | rev | cap0 | cap1 | ctrl | status | cmd | outLen | id
  | len (b : Buf)
  | buf (b : Buf)
  | out
  | reserved
  deriving DecidableEq, Repr

/-- The buffer whose range holds an offset, if any. -/
def bufAt (off : Nat) : Option Buf :=
  allBufs.find? fun b => bufOffset b ≤ off && off < bufOffset b + bufCap b

/-- The offset lies in OUT. -/
def inOut (off : Nat) : Bool := outOffset ≤ off && off < outOffset + outCap

/-- The register map of R22. "Any offset not listed is reserved". -/
def target (off : Nat) : Target :=
  match off with
  | 0x000 => .blockId
  | 0x004 => .rev
  | 0x008 => .cap0
  | 0x00C => .cap1
  | 0x010 => .ctrl
  | 0x014 => .status
  | 0x018 => .cmd
  | 0x01C => .outLen
  | 0x020 => .id
  | 0x024 => .len .pw
  | 0x028 => .len .chal
  | 0x02C => .len .user
  | 0x030 => .len .pchal
  | 0x034 => .len .achal
  | 0x038 => .len .ntresp
  | 0x03C => .len .kin
  | 0x040 => .len .curkey
  | _ =>
    match bufAt off with
    | some b => .buf b
    | none => if inOut off then .out else .reserved

end Sys2Proof.Machine
end

