-- ==== Sys2Proof/Machine/Ops.lean ====
section
/-! DEFINITION. The named operations over the block's memory and registers, the issue of a command
(spec 60_exceptions.md R225), and its two endings: the result (R227, 40_stream_and_parity.md R108)
and the error completion (R228), which is this hardware's whole form of taking an exception (R220,
R230). There is no return from it: the record stays until the next issue (R231). -/

namespace Sys2Proof.Machine

/-! ## Memory -/

/-- One byte of the window's data bytes. -/
def Memory.readByte : Memory → Nat → Byte
  | [], _ => unlistedByte
  | (k, v) :: m, a => if k = a then v else Memory.readByte m a

/-- Put a cell before the first cell of a higher offset. -/
def Memory.insertCell : Memory → Nat → Byte → Memory
  | [], a, v => [(a, v)]
  | (k, w) :: m, a, v => if a < k then (a, v) :: (k, w) :: m else (k, w) :: Memory.insertCell m a v

/-- Write one byte and keep the canonical form: a byte equal to what an unlisted offset reads as
removes the entry. -/
def Memory.writeByte (m : Memory) (a : Nat) (v : Byte) : Memory :=
  let rest := m.filter fun c => c.1 ≠ a
  if v = unlistedByte then rest else Memory.insertCell rest a v

/-- The `n` bytes from offset `a` on. -/
def Memory.load (m : Memory) (a n : Nat) : BytesN n :=
  ⟨(List.range n).map fun k => Memory.readByte m (a + k), by simp⟩

/-- Store a byte string from offset `a` on. -/
def Memory.store : Memory → Nat → Bytes → Memory
  | m, _, [] => m
  | m, a, b :: bs => Memory.store (Memory.writeByte m a b) (a + 1) bs

/-- Set the `n` bytes from offset `a` on to 0x00: what an unlisted offset reads as (R50), so that the
cells of the range are removed. -/
def Memory.clear (m : Memory) (a n : Nat) : Memory := m.filter fun c => ¬ (a ≤ c.1 ∧ c.1 < a + n)

/-- The word at offset `a`, lanes little-endian (20_memory.md R63). -/
def Memory.readWord (m : Memory) (a : Nat) : Word :=
  wordOfLanes (m.readByte a) (m.readByte (a + 1)) (m.readByte (a + 2)) (m.readByte (a + 3))

/-- Write a word at offset `a`: `B[4j+i] <- v[8i+7 : 8i]` for `i = 0..3` (20_memory.md R63). -/
def Memory.writeWord (m : Memory) (a : Nat) (v : Word) : Memory :=
  m.store a [lane v 0, lane v 1, lane v 2, lane v 3]

/-! ## Length registers -/

/-- `B_LEN` (R31). -/
def Block.lenOf (b : Block) : Buf → BitVec 16
  | .pw => b.pwLen
  | .chal => b.chLen
  | .user => b.userLen
  | .pchal => b.pcLen
  | .achal => b.acLen
  | .ntresp => b.nrLen
  | .kin => b.kinLen
  | .curkey => b.ckLen

/-- `B_LEN <- v`, stored as written (R31). -/
def Block.setLen (b : Block) (buf : Buf) (v : BitVec 16) : Block :=
  match buf with
  | .pw => { b with pwLen := v }
  | .chal => { b with chLen := v }
  | .user => { b with userLen := v }
  | .pchal => { b with pcLen := v }
  | .achal => { b with acLen := v }
  | .ntresp => { b with nrLen := v }
  | .kin => { b with kinLen := v }
  | .curkey => { b with ckLen := v }

/-! ## Issue and completion -/

/-- How a command's computation ends with an error (60_exceptions.md R221, R222). -/
inductive CmdError where
  | illegal
  /-- LENGTH of the operand buffer whose check failed -/
  | length (operand : Buf)
  /-- PRIM of the missing primitive -/
  | prim (p : Prim)
  | fatal
  deriving DecidableEq, Repr

/-- Operand ids (40_stream_and_parity.md R103). Id 1 is ID, which never fails. -/
def operandId : Buf → BitVec 4
  | .pw => 2
  | .chal => 3
  | .user => 4
  | .pchal => 5
  | .achal => 6
  | .ntresp => 7
  | .kin => 8
  | .curkey => 9

/-- Primitive ids (60_exceptions.md R224). -/
def primId : Prim → BitVec 4
  | .md4 => 1
  | .md5 => 2
  | .sha1 => 3
  | .des => 4

/-- ERRCODE of an error (60_exceptions.md R221). -/
def CmdError.code : CmdError → BitVec 4
  | .illegal => 1
  | .length _ => 2
  | .prim _ => 3
  | .fatal => 4

/-- ERROP of an error: the operand id, the primitive id, else 0 (60_exceptions.md R221, R222). -/
def CmdError.info : CmdError → BitVec 4
  | .illegal => 0
  | .length b => operandId b
  | .prim p => primId p
  | .fatal => 0

/-- A PRIM error sets FATAL (60_exceptions.md R224). -/
def CmdError.setsFatal : CmdError → Bool
  | .prim _ => true
  | .illegal | .length _ | .fatal => false

/-- `issue(v)` (60_exceptions.md R225). FATAL, BWE, the operand buffers, the length registers and ID
are unchanged. -/
def Block.issue (b : Block) (v : Word) : Block :=
  { b with
    cmd := v, busy := true, done := false, err := false, errcode := 0, errop := 0
    mem := b.mem.clear outOffset outCap, outLen := 0 }

/-- `result(r)`, then BUSY <- 0 and DONE <- 1 (40_stream_and_parity.md R108, 60_exceptions.md R226). -/
def Block.completeOk (b : Block) (r : Bytes) : Block :=
  { b with
    mem := b.mem.store outOffset r, outLen := BitVec.ofNat 6 r.length, busy := false, done := true }

/-- The error completion: the status record, FATAL if the error is PRIM, then BUSY <- 0 and DONE <- 1
(60_exceptions.md R224, R226, R228). -/
def Block.completeError (b : Block) (e : CmdError) : Block :=
  { b with
    err := true, errcode := e.code, errop := e.info, fatal := b.fatal || e.setsFatal
    busy := false, done := true }

/-- The end of a command whose checks and computation gave `r`; with FATAL = 1 the command ends with
the error FATAL whatever they gave, since that is the first thing a completion looks at
(60_exceptions.md R223 step 1, R226; log 12). -/
def Block.finish (b : Block) (r : Except CmdError Bytes) : Block :=
  if b.fatal then b.completeError .fatal
  else
    match r with
    | .ok bytes => b.completeOk bytes
    | .error e => b.completeError e

/-- `complete()` seen from the machine: only the block changes (60_exceptions.md R226). -/
def State.complete (s : State) (r : Except CmdError Bytes) : State := { s with blk := s.blk.finish r }

end Sys2Proof.Machine
end

