-- ==== Sys2Proof/Machine/Flags.lean ====
section
/-! DEFINITION. The STATUS word (spec 10_state.md R26) and the other words the host reads from
registers that hold no whole word (R24, R25). -/

namespace Sys2Proof.Machine

/-- A Bool as the least bit of a word. -/
def bit (f : Bool) : Word := if f then 1 else 0

/-- `BUSY | DONE<<1 | ERR<<2 | FATAL<<3 | BWE<<4 | ERRCODE<<8 | ERROP<<16` (R26). -/
def Block.statusWord (b : Block) : Word :=
  bit b.busy ||| bit b.done <<< 1 ||| bit b.err <<< 2 ||| bit b.fatal <<< 3 ||| bit b.bwe <<< 4
    ||| b.errcode.setWidth 32 <<< 8 ||| b.errop.setWidth 32 <<< 16

/-- A STATUS write while BUSY = 0: `if v[4] = 1 then BWE <- 0`; every other bit is ignored (R26). -/
def Block.writeStatus (b : Block) (v : Word) : Block :=
  if v.getLsbD 4 then { b with bwe := false } else b

/-- CAP0: PW_CAP in bits 15:0, USER_CAP in bits 31:16 (R24). -/
def cap0Word : Word := BitVec.ofNat 32 (bufCap .pw) ||| BitVec.ofNat 32 (bufCap .user) <<< 16

/-- CAP1: CH_CAP in bits 15:0, bits 16 to 19 the availability of MD4, MD5, SHA1, DES (R25). -/
def cap1Word (c : Config) : Word :=
  BitVec.ofNat 32 (bufCap .chal) ||| bit (c.avail.has .md4) <<< 16 ||| bit (c.avail.has .md5) <<< 17
    ||| bit (c.avail.has .sha1) <<< 18 ||| bit (c.avail.has .des) <<< 19

end Sys2Proof.Machine
end

