-- ==== Sys2Proof/Machine/HostPort.lean ====
section
/-! DEFINITION. The host's accesses to the register window: address decode, width and alignment, reads
and writes (spec 20_memory.md R61 to R66), and the two resets (70_reset_and_hazards.md R250, R251). -/

namespace Sys2Proof.Machine

/-- Address decode: offset `a - BASE` when `BASE <= a <= BASE + 0xFFF` (R61). -/
def windowOffset (c : Config) (a : Nat) : Option Nat :=
  if c.base ≤ a ∧ a < c.base + windowSize then some (a - c.base) else none

/-- `MemRead(BASE + off, 4)` for an aligned offset (R64). Reading changes nothing: the result is the
word alone. -/
def Block.readAt (c : Config) (b : Block) (off : Nat) : Word :=
  match target off with
  | .blockId => 0x50414843
  | .rev => 0x00000001
  | .cap0 => cap0Word
  | .cap1 => cap1Word c
  | .ctrl => 0
  | .status => b.statusWord
  | .cmd => b.cmd
  | .outLen => b.outLen.setWidth 32
  | .id => b.id.setWidth 32
  | .len buf => (b.lenOf buf).setWidth 32
  | .buf _ => b.mem.readWord off
  | .out => b.mem.readWord off
  | .reserved => 0

/-- A hard reset or a soft reset sets every piece of the block's state to R50 (R250, R251); a pending
command is discarded (R260). -/
def Block.resetNow (_ : Block) : Block := Block.reset

/-- A write to CTRL: bit 0 = 1 resets, otherwise no effect (R27, R251). -/
def Block.writeCtrl (b : Block) (v : Word) : Block := if v.getLsbD 0 then b.resetNow else b

/-- `MemWrite(BASE + off, 4, v)` for an aligned offset (R65). While BUSY = 1 a write to any offset but
CTRL is dropped and sets BWE (70_reset_and_hazards.md R257). -/
def Block.writeAt (b : Block) (off : Nat) (v : Word) : Block :=
  if b.busy ∧ target off ≠ .ctrl then { b with bwe := true }
  else
    match target off with
    | .ctrl => b.writeCtrl v
    | .status => b.writeStatus v
    | .cmd => b.issue v
    | .id => { b with id := v.setWidth 8 }
    | .len buf => b.setLen buf (v.setWidth 16)
    | .buf _ => { b with mem := b.mem.writeWord off v }
    | .blockId | .rev | .cap0 | .cap1 | .outLen | .out | .reserved => b

/-- One host access: the port's answer and the block after it. Any width but 32 bits, or an offset not
divisible by 4, is a bus error with no effect (R62); an address outside the window is no access to
the block (R61). -/
def Block.access (c : Config) (b : Block) (a : Access) : Reply × Block :=
  match windowOffset c a.addr with
  | none => (.notSelected, b)
  | some off =>
    if a.width = 32 ∧ off % 4 = 0 then
      match a.op with
      | .read => (.data (b.readAt c off), b)
      | .write v => (.ack, b.writeAt off v)
    else (.busError, b)

/-- The host's step: "A model treats such an access as a fault of the host step" (R62, log 6). -/
def hostStep (c : Config) (a : Access) (s : State) : Host.Outcome State Fault Refusal :=
  match s.blk.access c a with
  | (.busError, _) => .fault (.busError a.addr a.width)
  | (r, b) => .next { s with blk := b, reply := some r }

/-- The reset agent's step (70_reset_and_hazards.md R250); the host's side of the port is no part of
the block (log 19). -/
def resetStep (s : State) : Host.Outcome State Fault Refusal := .next { s with blk := s.blk.resetNow }

end Sys2Proof.Machine
end

