-- ==== Sys2Proof/Syntax.lean ====
section
/-! DEFINITION. The commands of NCSEQ-1: one constructor of `Instr` for each row of
spec/opcode_table.json (spec 30_encoding.md R80, R85), the fields of the command word, and the
written form of a command (R87). -/

namespace Sys2Proof

/-- The four flag fields of the command word (R80): SEND, SERVER, CKP, K16. -/
structure Flags where
  send   : Bool := false
  server : Bool := false
  ckp    : Bool := false
  k16    : Bool := false
  deriving DecidableEq, Repr

/-- The one format C32 of R80: opcode (bits 7:0), flags (bits 11:8), reserved (bits 31:12). -/
structure C32 where
  opc   : BitVec 8
  flags : Flags
  rsv   : BitVec 20
  deriving DecidableEq, Repr

/-- The mnemonics of R85, in its order. -/
inductive Mnemonic where
  | pexp
  | chapResp
  | lmHash | ntHash | ntHashHash | v1Chresp | lmChresp | ntChresp
  | getStartKey | getKey | getKey40 | getKey56 | getKey128
  | challengeHash | genNtResp | genAuthResp
  | getMasterKey | getAsymStartKey | getSessionKeys64 | getSessionKeys128
  deriving DecidableEq, Repr

/-- A command as an assembler line writes it, `MNEMONIC[.S][.V][.C][.16]` (R87); the suffixes set
SEND, SERVER, CKP and K16. Not every suffix is allowed on every mnemonic: see `AsmCmd.wf`. -/
structure AsmCmd where
  mnemonic : Mnemonic
  flags    : Flags
  deriving DecidableEq, Repr

/-- The commands, with the flag fields their row of R85 allows: `send` is `isSend`, `server` is
`isServer`, `ckp` says that CURKEY is used, `k16` selects L = 16 instead of L = 8 (R80, R81). -/
inductive Instr where
  | pexp
  | chapResp
  | lmHash
  | ntHash
  | ntHashHash
  | v1Chresp
  | lmChresp
  | ntChresp
  | getStartKey
  | getKey (ckp k16 : Bool)
  | getKey40 (ckp : Bool)
  | getKey56 (ckp : Bool)
  | getKey128 (ckp : Bool)
  | challengeHash
  | genNtResp
  | genAuthResp
  | getMasterKey
  | getAsymStartKey (send server k16 : Bool)
  | getSessionKeys64
  | getSessionKeys128
  deriving DecidableEq, Repr

/-- The written form of a command. -/
def Instr.asm : Instr → AsmCmd
  | .pexp => ⟨.pexp, {}⟩
  | .chapResp => ⟨.chapResp, {}⟩
  | .lmHash => ⟨.lmHash, {}⟩
  | .ntHash => ⟨.ntHash, {}⟩
  | .ntHashHash => ⟨.ntHashHash, {}⟩
  | .v1Chresp => ⟨.v1Chresp, {}⟩
  | .lmChresp => ⟨.lmChresp, {}⟩
  | .ntChresp => ⟨.ntChresp, {}⟩
  | .getStartKey => ⟨.getStartKey, {}⟩
  | .getKey ckp k16 => ⟨.getKey, { ckp := ckp, k16 := k16 }⟩
  | .getKey40 ckp => ⟨.getKey40, { ckp := ckp }⟩
  | .getKey56 ckp => ⟨.getKey56, { ckp := ckp }⟩
  | .getKey128 ckp => ⟨.getKey128, { ckp := ckp }⟩
  | .challengeHash => ⟨.challengeHash, {}⟩
  | .genNtResp => ⟨.genNtResp, {}⟩
  | .genAuthResp => ⟨.genAuthResp, {}⟩
  | .getMasterKey => ⟨.getMasterKey, {}⟩
  | .getAsymStartKey send server k16 => ⟨.getAsymStartKey, { send := send, server := server, k16 := k16 }⟩
  | .getSessionKeys64 => ⟨.getSessionKeys64, {}⟩
  | .getSessionKeys128 => ⟨.getSessionKeys128, {}⟩

end Sys2Proof
end

