-- ==== Sys2Proof/WellFormed.lean ====
section
/-! DEFINITION. Which flag fields a mnemonic allows (the "fields" column of spec 30_encoding.md R85)
and the check the assembler makes: it "refuses a suffix the opcode does not allow" (R87). -/

namespace Sys2Proof

/-- The "fields" column of R85: `true` where the row allows the flag. -/
def Mnemonic.allowed : Mnemonic → Flags
  | .getKey => { ckp := true, k16 := true }
  | .getKey40 => { ckp := true }
  | .getKey56 => { ckp := true }
  | .getKey128 => { ckp := true }
  | .getAsymStartKey => { send := true, server := true, k16 := true }
  | .pexp | .chapResp | .lmHash | .ntHash | .ntHashHash | .v1Chresp | .lmChresp | .ntChresp
  | .getStartKey | .challengeHash | .genNtResp | .genAuthResp | .getMasterKey
  | .getSessionKeys64 | .getSessionKeys128 => {}

/-- Every flag that is set is allowed. -/
def Flags.within (f allowed : Flags) : Bool :=
  (!f.send || allowed.send) && (!f.server || allowed.server) && (!f.ckp || allowed.ckp) && (!f.k16 || allowed.k16)

/-- The four suffix checks of R87: no flag is set that the mnemonic's row does not allow
("for every other opcode they are reserved and must be 0", R80). -/
def AsmCmd.wf (a : AsmCmd) : Bool := a.flags.within a.mnemonic.allowed

/-- A command is well formed when its written form is. `Instr` carries only the flags its row
allows, so every term of it is well formed (`Laws.WellFormed`). -/
def Instr.wf (i : Instr) : Bool := i.asm.wf

end Sys2Proof
end

