-- ==== Sys2Proof/Decode.lean ====
section
/-! DEFINITION. Decoding a command word and, after it, encoding a command (spec 30_encoding.md R80 to
R86). -/

namespace Sys2Proof

/-- Why a word is not legal (R82, R83); each of them completes with ILLEGAL. -/
inductive DecodeError where
  /-- bits 7:0 are no opcode of R85 (0x00 included) -/
  | reservedOpcode (opc : BitVec 8)
  /-- one of bits 31:12 is set -/
  | reservedBits (rsv : BitVec 20)
  /-- a flag is set that the opcode's row does not allow -/
  | disallowedFlag (flags : Flags)
  deriving DecidableEq, Repr

/-- The fields of a word (R80). -/
def C32.ofWord (w : Word) : C32 :=
  { opc := w.extractLsb' 0 8
    flags := { send := w.getLsbD 8, server := w.getLsbD 9, ckp := w.getLsbD 10, k16 := w.getLsbD 11 }
    rsv := w.extractLsb' 12 20 }

/-- The opcode map of R85 read from opcode to mnemonic. -/
def opcodeMnemonic (opc : BitVec 8) : Option Mnemonic :=
  match opc.toNat with
  | 0x01 => some .pexp
  | 0x10 => some .chapResp
  | 0x20 => some .lmHash
  | 0x21 => some .ntHash
  | 0x22 => some .ntHashHash
  | 0x23 => some .v1Chresp
  | 0x24 => some .lmChresp
  | 0x25 => some .ntChresp
  | 0x28 => some .getStartKey
  | 0x29 => some .getKey
  | 0x2A => some .getKey40
  | 0x2B => some .getKey56
  | 0x2C => some .getKey128
  | 0x30 => some .challengeHash
  | 0x31 => some .genNtResp
  | 0x32 => some .genAuthResp
  | 0x38 => some .getMasterKey
  | 0x39 => some .getAsymStartKey
  | 0x3A => some .getSessionKeys64
  | 0x3B => some .getSessionKeys128
  | _ => none

/-- The command a well-formed written form stands for; the flags its row does not list are dropped,
which `AsmCmd.wf` has found to be 0. -/
def AsmCmd.build (a : AsmCmd) : Instr :=
  match a.mnemonic with
  | .pexp => .pexp
  | .chapResp => .chapResp
  | .lmHash => .lmHash
  | .ntHash => .ntHash
  | .ntHashHash => .ntHashHash
  | .v1Chresp => .v1Chresp
  | .lmChresp => .lmChresp
  | .ntChresp => .ntChresp
  | .getStartKey => .getStartKey
  | .getKey => .getKey a.flags.ckp a.flags.k16
  | .getKey40 => .getKey40 a.flags.ckp
  | .getKey56 => .getKey56 a.flags.ckp
  | .getKey128 => .getKey128 a.flags.ckp
  | .challengeHash => .challengeHash
  | .genNtResp => .genNtResp
  | .genAuthResp => .genAuthResp
  | .getMasterKey => .getMasterKey
  | .getAsymStartKey => .getAsymStartKey a.flags.send a.flags.server a.flags.k16
  | .getSessionKeys64 => .getSessionKeys64
  | .getSessionKeys128 => .getSessionKeys128

/-- Decoding of R82: the opcode is in the map, bits 31:12 are 0, and no flag outside the opcode's
allowed fields is set. Total, and every rejection has a name. -/
def decode (w : Word) : Except DecodeError Instr :=
  let f := C32.ofWord w
  match opcodeMnemonic f.opc with
  | none => .error (.reservedOpcode f.opc)
  | some m =>
    let a : AsmCmd := ⟨m, f.flags⟩
    if f.rsv ≠ 0 then .error (.reservedBits f.rsv)
    else if a.wf then .ok a.build
    else .error (.disallowedFlag f.flags)

/-- The "opc" column of R85. -/
def Mnemonic.opcode : Mnemonic → BitVec 8
  | .pexp => 0x01
  | .chapResp => 0x10
  | .lmHash => 0x20
  | .ntHash => 0x21
  | .ntHashHash => 0x22
  | .v1Chresp => 0x23
  | .lmChresp => 0x24
  | .ntChresp => 0x25
  | .getStartKey => 0x28
  | .getKey => 0x29
  | .getKey40 => 0x2A
  | .getKey56 => 0x2B
  | .getKey128 => 0x2C
  | .challengeHash => 0x30
  | .genNtResp => 0x31
  | .genAuthResp => 0x32
  | .getMasterKey => 0x38
  | .getAsymStartKey => 0x39
  | .getSessionKeys64 => 0x3A
  | .getSessionKeys128 => 0x3B

/-- A flag at bit `n` of a word. -/
def flagBit (f : Bool) (n : Nat) : Word := (if f then 1#32 else 0#32) <<< n

/-- `SEND<<8 | SERVER<<9 | CKP<<10 | K16<<11` (R86). -/
def Flags.bits (f : Flags) : Word :=
  flagBit f.send 8 ||| flagBit f.server 9 ||| flagBit f.ckp 10 ||| flagBit f.k16 11

/-- The word of a written form: `opc | SEND<<8 | SERVER<<9 | CKP<<10 | K16<<11` (R86). -/
def AsmCmd.word (a : AsmCmd) : Word := a.mnemonic.opcode.setWidth 32 ||| a.flags.bits

/-- The word of a command (R86). -/
def encode (i : Instr) : Word := i.asm.word

/-- The rows of OPMAP (R82), by mnemonic. -/
def opMap : List Mnemonic :=
  [.pexp, .chapResp, .lmHash, .ntHash, .ntHashHash, .v1Chresp, .lmChresp, .ntChresp] ++
  [.getStartKey, .getKey, .getKey40, .getKey56, .getKey128] ++
  [.challengeHash, .genNtResp, .genAuthResp] ++
  [.getMasterKey, .getAsymStartKey, .getSessionKeys64, .getSessionKeys128]

/-- `row.mask = 0xFFFFFFFF & ~(allowed flag bits)` (R82, opcode_table.json). -/
def Mnemonic.mask (m : Mnemonic) : Word := 0xFFFFFFFF#32 &&& ~~~m.allowed.bits

/-- `row.match = row.opc` (R82, opcode_table.json). -/
def Mnemonic.matchWord (m : Mnemonic) : Word := m.opcode.setWidth 32

/-- `legal(w)`: some row has `w & row.mask = row.match`, the second form R82 gives and the one
opcode_table.json lists. R82's first form, `(w & ~row.allowed) = row.opc` with 0xFF in `allowed`,
clears the opcode's own bits and so holds of no opcode but 0x00: DEDUCED to be a slip, log 21. -/
def legal (w : Word) : Bool := opMap.any fun m => w &&& m.mask == m.matchWord

/-- The command the decoder reads from a word given by its number, bit 0 the least significant; bits
above `nbits` are 0. Every command is one 32-bit word (R84). -/
def decodeTableWord (nbits w : Nat) : Option Instr :=
  (decode (BitVec.ofNat 32 (w % 2 ^ nbits))).toOption

end Sys2Proof
end

