-- ==== Sys2Proof/Machine/Operands.lean ====
section
/-! DEFINITION. Every operand form of a command: the fixed-length check `need`, the variable-length
check `var`, the optional current key, the flag K16, and the primitive check `require` (spec
40_stream_and_parity.md R104 to R107, 43_mschapv1_mppe.md R162, 30_encoding.md R81, 60_exceptions.md
R224). -/

namespace Sys2Proof.Machine

/-- `L := if CMD[11] = 1 then 16 else 8` (30_encoding.md R81). -/
abbrev keyLen : Bool → Nat
  | true => 16
  | false => 8

/-- `need(B, n)`: the first `n` bytes of the buffer, if `n <= B_LEN <= CAP(B)` (R104). -/
def Block.need (b : Block) (buf : Buf) (n : Nat) : Except CmdError (BytesN n) :=
  if (b.lenOf buf).toNat < n ∨ (b.lenOf buf).toNat > bufCap buf then .error (.length buf)
  else .ok (b.mem.load (bufOffset buf) n)

/-- `var(B)`: the first `B_LEN` bytes of the buffer, if `B_LEN <= CAP(B)` (R105). -/
def Block.var (b : Block) (buf : Buf) : Except CmdError Bytes :=
  if (b.lenOf buf).toNat > bufCap buf then .error (.length buf)
  else .ok (b.mem.load (bufOffset buf) (b.lenOf buf).toNat).toList

/-- `if ckp then need(CURKEY, L) else none`: a conditional operand is not checked when CKP = 0
(R106, R162). -/
def Block.currentKey (b : Block) (ckp : Bool) (n : Nat) : Except CmdError (Option (BytesN n)) :=
  if ckp then (b.need .curkey n).map some else .ok none

/-- `require P1, ..., Pk ∈ PRIM_AVAIL`: PRIM of the lowest-numbered listed primitive that is missing
(R107, 60_exceptions.md R224). -/
def require (c : Config) (ps : List Prim) : Except CmdError Unit :=
  match [Prim.md4, .md5, .sha1, .des].find? fun p => ps.contains p && !c.avail.has p with
  | some p => .error (.prim p)
  | none => .ok ()

end Sys2Proof.Machine
end

