-- ==== Sys2Proof/Machine/Chap.lean ====
section
/-! DEFINITION. The CHAP response (spec 41_chap.md R130, R131). -/

namespace Sys2Proof.Machine

/-- `CHAPRESP(id, pw, ch) := MD5(id ‖ pw ‖ ch)` (R130). -/
def chapresp (c : Config) (id : Byte) (pw ch : Bytes) : BytesN 16 := c.md5 ([id] ++ pw ++ ch)

/-- R131, pseudocode of CHAP_RESP. -/
def cmdChapResp (c : Config) (b : Block) : Except CmdError Bytes := do
  let pw ← b.var .pw
  let ch ← b.var .chal
  require c [.md5]
  return (chapresp c b.id pw ch).toList

/-- CHAP_RESP (R131). -/
def execChapResp (s : State) : Host.Outcome State Fault Refusal :=
  .next (s.complete (cmdChapResp Config.hw s.blk))

end Sys2Proof.Machine
end

