-- ==== Sys2Proof/Machine/Parity.lean ====
section
/-! DEFINITION. The DES key parity expander and its command PEXP (spec 40_stream_and_parity.md R110 to
R113). -/

namespace Sys2Proof.Machine

/-- The loop of R110 from input byte `i` on, `next` being the bits carried over from the byte before:
`out[i] <- low8((k[i] >> i) | next | 1)`, `next <- k[i] << (7 - i)`, and after the last byte
`out[7] <- low8(next | 1)`. -/
def parFrom : Nat → Nat → Bytes → Bytes
  | _, next, [] => [low8 (next ||| 1)]
  | i, next, k :: ks => low8 (k.toNat >>> i ||| next ||| 1) :: parFrom (i + 1) (k.toNat <<< (7 - i)) ks

theorem parFrom_length (i next : Nat) (k : Bytes) : (parFrom i next k).length = k.length + 1 := by
  induction k generalizing i next with
  | nil => rfl
  | cons b bs ih => simp [parFrom, ih]

/-- `PAR(k)` (R110). -/
def par (k : BytesN 7) : BytesN 8 := ⟨parFrom 0 0 k.toList, by simp [parFrom_length]⟩

/-- `DESX(k, p) := DES(PAR(k), p)` (R112): every DES call of the block is one of these. -/
def desx (c : Config) (k : BytesN 7) (p : BytesN 8) : BytesN 8 := c.des (par k) p

/-- R113, pseudocode of PEXP. It uses no primitive. -/
def cmdPexp (b : Block) : Except CmdError Bytes := do
  let k ← b.need .kin 7
  return (par k).toList

/-- PEXP (R113). -/
def execPexp (s : State) : Host.Outcome State Fault Refusal := .next (s.complete (cmdPexp s.blk))

end Sys2Proof.Machine
end

