-- ==== Sys2Proof/Machine/Streams.lean ====
section
/-! DEFINITION. The fixed constants that enter streams (spec 40_stream_and_parity.md R102), by the
"bytes (hex)" column of its table. The texts of SEND_MAGIC and RECV_MAGIC are marked there as from
general knowledge (log 14). -/

namespace Sys2Proof.Machine

/-- A constant written as one number, most significant byte first. -/
def bytesOfNat (n v : Nat) : BytesN n :=
  ⟨(List.range n).map fun k => low8 (v / 256 ^ (n - 1 - k)), by simp⟩

/-- LM_MAGIC: `KGS!@#$%`. -/
def lmMagic : BytesN 8 := bytesOfNat 8 0x4b47532140232425

/-- SIGN_MAGIC: `Magic server to client signing constant`. -/
def signMagic : BytesN 39 :=
  cat (cat (bytesOfNat 16 0x4d616769632073657276657220746f20)
    (bytesOfNat 16 0x636c69656e74207369676e696e672063)) (bytesOfNat 7 0x6f6e7374616e74)

/-- PAD_MAGIC: `Pad to make it do more than one iteration`. -/
def padMagic : BytesN 41 :=
  cat (cat (bytesOfNat 16 0x50616420746f206d616b652069742064)
    (bytesOfNat 16 0x6f206d6f7265207468616e206f6e6520)) (bytesOfNat 9 0x697465726174696f6e)

/-- MASTER_MAGIC: `This is the MPPE Master Key`. -/
def masterMagic : BytesN 27 :=
  cat (bytesOfNat 16 0x5468697320697320746865204d505045) (bytesOfNat 11 0x204d6173746572204b6579)

/-- SEND_MAGIC: `On the client side, this is the send key; on the server side, it is the receive key.` -/
def sendMagic : BytesN 84 :=
  cat (cat (cat (cat (cat (bytesOfNat 16 0x4f6e2074686520636c69656e74207369)
    (bytesOfNat 16 0x64652c20746869732069732074686520))
    (bytesOfNat 16 0x73656e64206b65793b206f6e20746865))
    (bytesOfNat 16 0x2073657276657220736964652c206974))
    (bytesOfNat 16 0x20697320746865207265636569766520)) (bytesOfNat 4 0x6b65792e)

/-- RECV_MAGIC: `On the client side, this is the receive key; on the server side, it is the send key.` -/
def recvMagic : BytesN 84 :=
  cat (cat (cat (cat (cat (bytesOfNat 16 0x4f6e2074686520636c69656e74207369)
    (bytesOfNat 16 0x64652c20746869732069732074686520))
    (bytesOfNat 16 0x72656365697665206b65793b206f6e20))
    (bytesOfNat 16 0x7468652073657276657220736964652c))
    (bytesOfNat 16 0x206974206973207468652073656e6420)) (bytesOfNat 4 0x6b65792e)

/-- PAD_ZERO: 40 zero bytes. -/
def padZero : BytesN 40 := zeros 40

/-- PAD_F2: 40 bytes of 0xF2. -/
def padF2 : BytesN 40 := fill 0xF2 40

/-- W40: d1 26 9e. -/
def w40 : BytesN 3 := bytesOfNat 3 0xd1269e

/-- W56: d1. -/
def w56 : BytesN 1 := bytesOfNat 1 0xd1

end Sys2Proof.Machine
end

