-- ==== Sys2Proof/Machine/MsChapV1.lean ====
section
/-! DEFINITION. MS-CHAPv1 password hashes and challenge response (spec 42_mschapv1.md R140 to R149). -/

namespace Sys2Proof.Machine

/-! ## Functions -/

/-- `UPC(b)`: every byte in 0x61 .. 0x7A less 0x20, every other byte unchanged (R140). -/
def upc (b : Bytes) : Bytes := b.map fun x => if 0x61 ≤ x.toNat ∧ x.toNat ≤ 0x7A then x - 0x20 else x

/-- `LM14(pw) := take(UPC(pw) ‖ zeros(14), 14)` (R140). -/
def lm14 (pw : Bytes) : BytesN 14 := ⟨(upc pw ++ (zeros 14).toList).take 14, by simp⟩

/-- `LMHASH(pw)`: LM_MAGIC under each 7-byte half of the password buffer (R141). -/
def lmhash (c : Config) (pw : Bytes) : BytesN 16 :=
  cat (desx c (slice (lm14 pw) 0 7) lmMagic) (desx c (slice (lm14 pw) 7 7) lmMagic)

/-- `NTHASH(p) := MD4(p)` (R142). -/
def nthash (c : Config) (p : Bytes) : BytesN 16 := c.md4 p

/-- `HASHHASH(p) := MD4(MD4(p))`, the inner digest hashed raw (R142, 90_conflicts.md C5). -/
def hashhash (c : Config) (p : Bytes) : BytesN 16 := c.md4 (c.md4 p).toList

/-- `CHRESP(ch, h)`: the challenge under the three 7-byte slices of `h ‖ zeros(5)` (R143). -/
def chresp (c : Config) (ch : BytesN 8) (h : BytesN 16) : BytesN 24 :=
  let z : BytesN 21 := cat h (zeros 5)
  cat (cat (desx c (slice z 0 7) ch) (desx c (slice z 7 7) ch)) (desx c (slice z 14 7) ch)

/-! ## Pseudocode of the commands -/

/-- R144. -/
def cmdLmHash (c : Config) (b : Block) : Except CmdError Bytes := do
  let pw ← b.var .pw
  require c [.des]
  return (lmhash c pw).toList

/-- R145. -/
def cmdNtHash (c : Config) (b : Block) : Except CmdError Bytes := do
  let p ← b.var .pw
  require c [.md4]
  return (nthash c p).toList

/-- R146. -/
def cmdNtHashHash (c : Config) (b : Block) : Except CmdError Bytes := do
  let p ← b.var .pw
  require c [.md4]
  return (hashhash c p).toList

/-- R147. -/
def cmdV1Chresp (c : Config) (b : Block) : Except CmdError Bytes := do
  let ch ← b.need .chal 8
  let h ← b.need .kin 16
  require c [.des]
  return (chresp c ch h).toList

/-- R148. -/
def cmdLmChresp (c : Config) (b : Block) : Except CmdError Bytes := do
  let ch ← b.need .chal 8
  let pw ← b.var .pw
  require c [.des]
  return (chresp c ch (lmhash c pw)).toList

/-- R149. -/
def cmdNtChresp (c : Config) (b : Block) : Except CmdError Bytes := do
  let ch ← b.need .chal 8
  let p ← b.var .pw
  require c [.md4, .des]
  return (chresp c ch (nthash c p)).toList

/-! ## Meanings -/

/-- LM_HASH (R144). -/
def execLmHash (s : State) : Host.Outcome State Fault Refusal :=
  .next (s.complete (cmdLmHash Config.hw s.blk))

/-- NT_HASH (R145). -/
def execNtHash (s : State) : Host.Outcome State Fault Refusal :=
  .next (s.complete (cmdNtHash Config.hw s.blk))

/-- NT_HASH_HASH (R146). -/
def execNtHashHash (s : State) : Host.Outcome State Fault Refusal :=
  .next (s.complete (cmdNtHashHash Config.hw s.blk))

/-- V1_CHRESP (R147). -/
def execV1Chresp (s : State) : Host.Outcome State Fault Refusal :=
  .next (s.complete (cmdV1Chresp Config.hw s.blk))

/-- LM_CHRESP (R148). -/
def execLmChresp (s : State) : Host.Outcome State Fault Refusal :=
  .next (s.complete (cmdLmChresp Config.hw s.blk))

/-- NT_CHRESP (R149). -/
def execNtChresp (s : State) : Host.Outcome State Fault Refusal :=
  .next (s.complete (cmdNtChresp Config.hw s.blk))

end Sys2Proof.Machine
end

