-- ==== Sys2Proof/Machine/MppeV1.lean ====
section
/-! DEFINITION. MPPE key derivation from MS-CHAPv1 (spec 43_mschapv1_mppe.md R160 to R168). -/

namespace Sys2Proof.Machine

/-! ## Functions -/

/-- `STARTKEY(ch, hh) := take(SHA1(hh ‖ hh ‖ ch), 16)` (R160). -/
def startkey (c : Config) (ch : BytesN 8) (hh : BytesN 16) : BytesN 16 :=
  takeN (c.sha1 (hh.toList ++ hh.toList ++ ch.toList)) 16

theorem keyLen_le (k16 : Bool) : keyLen k16 ≤ 20 := by cases k16 <;> decide

/-- `GETKEY(ik, ck, L) := take(SHA1(take(ik, L) ‖ PAD_ZERO ‖ take(ck, L) ‖ PAD_F2), L)` (R161); the
two keys come in cut to `L` bytes. -/
def getkey (c : Config) (k16 : Bool) (ik ck : BytesN (keyLen k16)) : BytesN (keyLen k16) :=
  takeN (c.sha1 (ik.toList ++ padZero.toList ++ ck.toList ++ padF2.toList)) (keyLen k16) (keyLen_le k16)

/-- `WEAK40(k) := W40 ‖ slice(k, 3, 5)` (R163). -/
def weak40 (k : BytesN 8) : BytesN 8 := cat w40 (slice k 3 5)

/-- `WEAK56(k) := W56 ‖ slice(k, 1, 7)` (R163). -/
def weak56 (k : BytesN 8) : BytesN 8 := cat w56 (slice k 1 7)

/-! ## Pseudocode of the commands. With CKP = 0 the current key is the initial key (R162, log 23). -/

/-- R164. -/
def cmdGetStartKey (c : Config) (b : Block) : Except CmdError Bytes := do
  let ch ← b.need .chal 8
  let hh ← b.need .kin 16
  require c [.sha1]
  return (startkey c ch hh).toList

/-- R165. -/
def cmdGetKey (c : Config) (ckp k16 : Bool) (b : Block) : Except CmdError Bytes := do
  let ik ← b.need .kin (keyLen k16)
  let ckOpt ← b.currentKey ckp (keyLen k16)
  require c [.sha1]
  return (getkey c k16 ik (ckOpt.getD ik)).toList

/-- R166. -/
def cmdGetKey40 (c : Config) (ckp : Bool) (b : Block) : Except CmdError Bytes := do
  let pw ← b.var .pw
  let ckOpt ← b.currentKey ckp 8
  require c [.des, .sha1]
  let ik : BytesN 8 := takeN (lmhash c pw) 8
  return (weak40 (getkey c false ik (ckOpt.getD ik))).toList

/-- R167. -/
def cmdGetKey56 (c : Config) (ckp : Bool) (b : Block) : Except CmdError Bytes := do
  let pw ← b.var .pw
  let ckOpt ← b.currentKey ckp 8
  require c [.des, .sha1]
  let ik : BytesN 8 := takeN (lmhash c pw) 8
  return (weak56 (getkey c false ik (ckOpt.getD ik))).toList

/-- R168. -/
def cmdGetKey128 (c : Config) (ckp : Bool) (b : Block) : Except CmdError Bytes := do
  let ch ← b.need .chal 8
  let p ← b.var .pw
  let ckOpt ← b.currentKey ckp 16
  require c [.md4, .sha1]
  let ik : BytesN 16 := startkey c ch (hashhash c p)
  return (getkey c true ik (ckOpt.getD ik)).toList

/-! ## Meanings -/

/-- GET_START_KEY (R164). -/
def execGetStartKey (s : State) : Host.Outcome State Fault Refusal :=
  .next (s.complete (cmdGetStartKey Config.hw s.blk))

/-- GET_KEY (R165). -/
def execGetKey (ckp k16 : Bool) (s : State) : Host.Outcome State Fault Refusal :=
  .next (s.complete (cmdGetKey Config.hw ckp k16 s.blk))

/-- GET_KEY_40 (R166). -/
def execGetKey40 (ckp : Bool) (s : State) : Host.Outcome State Fault Refusal :=
  .next (s.complete (cmdGetKey40 Config.hw ckp s.blk))

/-- GET_KEY_56 (R167). -/
def execGetKey56 (ckp : Bool) (s : State) : Host.Outcome State Fault Refusal :=
  .next (s.complete (cmdGetKey56 Config.hw ckp s.blk))

/-- GET_KEY_128 (R168). -/
def execGetKey128 (ckp : Bool) (s : State) : Host.Outcome State Fault Refusal :=
  .next (s.complete (cmdGetKey128 Config.hw ckp s.blk))

end Sys2Proof.Machine
end

