-- ==== Sys2Proof/Machine/MppeV2.lean ====
section
/-! DEFINITION. MPPE key derivation from MS-CHAPv2 (spec 45_mschapv2_mppe.md R200 to R207). -/

namespace Sys2Proof.Machine

/-! ## Functions -/

/-- `MASTERKEY(hh, nr) := take(SHA1(hh ‖ nr ‖ MASTER_MAGIC), 16)` (R200). -/
def masterkey (c : Config) (hh : BytesN 16) (nr : BytesN 24) : BytesN 16 :=
  takeN (c.sha1 (hh.toList ++ nr.toList ++ masterMagic.toList)) 16

/-- `if isSend = isServer then RECV_MAGIC else SEND_MAGIC` (R201, 90_conflicts.md C1). -/
def asymMagic (isSend isServer : Bool) : BytesN 84 := if isSend = isServer then recvMagic else sendMagic

/-- `ASYMKEY(mk, L, isSend, isServer) := take(SHA1(take(mk, 16) ‖ PAD_ZERO ‖ ASYM_MAGIC(isSend,
isServer) ‖ PAD_F2), L)` (R202). -/
def asymkey (c : Config) (mk : BytesN 16) (k16 isSend isServer : Bool) : BytesN (keyLen k16) :=
  takeN (c.sha1 (mk.toList ++ padZero.toList ++ (asymMagic isSend isServer).toList ++ padF2.toList))
    (keyLen k16) (keyLen_le k16)

/-- `SESSIONKEYS(p, nr, L)`: the send key, then the receive key, both with `isServer = true` (R203). -/
def sessionkeys (c : Config) (k16 : Bool) (p : Bytes) (nr : BytesN 24) : BytesN (keyLen k16 + keyLen k16) :=
  let mk := masterkey c (hashhash c p) nr
  cat (asymkey c mk k16 true true) (asymkey c mk k16 false true)

/-! ## Pseudocode of the commands -/

/-- R204. -/
def cmdGetMasterKey (c : Config) (b : Block) : Except CmdError Bytes := do
  let hh ← b.need .kin 16
  let nr ← b.need .ntresp 24
  require c [.sha1]
  return (masterkey c hh nr).toList

/-- R205. -/
def cmdGetAsymStartKey (c : Config) (isSend isServer k16 : Bool) (b : Block) : Except CmdError Bytes := do
  let mk ← b.need .kin 16
  require c [.sha1]
  return (asymkey c mk k16 isSend isServer).toList

/-- R206. -/
def cmdGetSessionKeys64 (c : Config) (b : Block) : Except CmdError Bytes := do
  let p ← b.var .pw
  let nr ← b.need .ntresp 24
  require c [.md4, .sha1]
  return (sessionkeys c false p nr).toList

/-- R207. -/
def cmdGetSessionKeys128 (c : Config) (b : Block) : Except CmdError Bytes := do
  let p ← b.var .pw
  let nr ← b.need .ntresp 24
  require c [.md4, .sha1]
  return (sessionkeys c true p nr).toList

/-! ## Meanings -/

/-- GET_MASTER_KEY (R204). -/
def execGetMasterKey (s : State) : Host.Outcome State Fault Refusal :=
  .next (s.complete (cmdGetMasterKey Config.hw s.blk))

/-- GET_ASYM_START_KEY (R205). -/
def execGetAsymStartKey (send server k16 : Bool) (s : State) : Host.Outcome State Fault Refusal :=
  .next (s.complete (cmdGetAsymStartKey Config.hw send server k16 s.blk))

/-- GET_SESSION_KEYS_64 (R206). -/
def execGetSessionKeys64 (s : State) : Host.Outcome State Fault Refusal :=
  .next (s.complete (cmdGetSessionKeys64 Config.hw s.blk))

/-- GET_SESSION_KEYS_128 (R207). -/
def execGetSessionKeys128 (s : State) : Host.Outcome State Fault Refusal :=
  .next (s.complete (cmdGetSessionKeys128 Config.hw s.blk))

end Sys2Proof.Machine
end

