-- ==== Sys2Proof/Machine/MsChapV2.lean ====
section
/-! DEFINITION. MS-CHAPv2 challenge hash, NT response and authenticator response (spec 44_mschapv2.md
R180 to R187). -/

namespace Sys2Proof.Machine

/-! ## Functions -/

/-- `CHALHASH(pc, ac, u) := take(SHA1(pc ‖ ac ‖ u), 8)` (R180). -/
def chalhash (c : Config) (pc ac : BytesN 16) (u : Bytes) : BytesN 8 :=
  takeN (c.sha1 (pc.toList ++ ac.toList ++ u)) 8

/-- `NTRESPONSE(ac, pc, u, p) := CHRESP(CHALHASH(pc, ac, u), NTHASH(p))` (R181). -/
def ntresponse (c : Config) (ac pc : BytesN 16) (u p : Bytes) : BytesN 24 :=
  chresp c (chalhash c pc ac u) (nthash c p)

/-- `PWDIGEST(p, nr) := SHA1(HASHHASH(p) ‖ nr ‖ SIGN_MAGIC)` (R182). -/
def pwdigest (c : Config) (p : Bytes) (nr : BytesN 24) : BytesN 20 :=
  c.sha1 ((hashhash c p).toList ++ nr.toList ++ signMagic.toList)

/-- `AUTHDIGEST(p, nr, pc, ac, u) := SHA1(PWDIGEST(p, nr) ‖ CHALHASH(pc, ac, u) ‖ PAD_MAGIC)` (R183). -/
def authdigest (c : Config) (p : Bytes) (nr : BytesN 24) (pc ac : BytesN 16) (u : Bytes) : BytesN 20 :=
  c.sha1 ((pwdigest c p nr).toList ++ (chalhash c pc ac u).toList ++ padMagic.toList)

/-- `AUTHSTR(...) := ascii("S=") ‖ HEXU(AUTHDIGEST(p, nr, pc, ac, u))` (R184). -/
def authstr (c : Config) (p : Bytes) (nr : BytesN 24) (pc ac : BytesN 16) (u : Bytes) : Bytes :=
  [0x53, 0x3D] ++ hexu (authdigest c p nr pc ac u).toList

/-! ## Pseudocode of the commands -/

/-- R185. -/
def cmdChallengeHash (c : Config) (b : Block) : Except CmdError Bytes := do
  let pc ← b.need .pchal 16
  let ac ← b.need .achal 16
  let u ← b.var .user
  require c [.sha1]
  return (chalhash c pc ac u).toList

/-- R186. -/
def cmdGenNtResp (c : Config) (b : Block) : Except CmdError Bytes := do
  let ac ← b.need .achal 16
  let pc ← b.need .pchal 16
  let u ← b.var .user
  let p ← b.var .pw
  require c [.md4, .sha1, .des]
  return (ntresponse c ac pc u p).toList

/-- R187. -/
def cmdGenAuthResp (c : Config) (b : Block) : Except CmdError Bytes := do
  let p ← b.var .pw
  let nr ← b.need .ntresp 24
  let pc ← b.need .pchal 16
  let ac ← b.need .achal 16
  let u ← b.var .user
  require c [.md4, .sha1]
  return authstr c p nr pc ac u

/-! ## Meanings -/

/-- CHALLENGE_HASH (R185). -/
def execChallengeHash (s : State) : Host.Outcome State Fault Refusal :=
  .next (s.complete (cmdChallengeHash Config.hw s.blk))

/-- GEN_NT_RESP (R186). -/
def execGenNtResp (s : State) : Host.Outcome State Fault Refusal :=
  .next (s.complete (cmdGenNtResp Config.hw s.blk))

/-- GEN_AUTH_RESP (R187). -/
def execGenAuthResp (s : State) : Host.Outcome State Fault Refusal :=
  .next (s.complete (cmdGenAuthResp Config.hw s.blk))

end Sys2Proof.Machine
end

