-- ==== Sys2Proof/Machine/Dispatch.lean ====
section
/-! DEFINITION. One arm per command (spec 30_encoding.md R85): the pending command's completion. -/

namespace Sys2Proof.Machine

def exec (i : Instr) (s : State) : Host.Outcome State Fault Refusal :=
  match i with
  -- the expander
  | .pexp => Sys2Proof.Machine.execPexp s
  -- CHAP
  | .chapResp => Sys2Proof.Machine.execChapResp s
  -- MS-CHAPv1
  | .lmHash => Sys2Proof.Machine.execLmHash s
  | .ntHash => Sys2Proof.Machine.execNtHash s
  | .ntHashHash => Sys2Proof.Machine.execNtHashHash s
  | .v1Chresp => Sys2Proof.Machine.execV1Chresp s
  | .lmChresp => Sys2Proof.Machine.execLmChresp s
  | .ntChresp => Sys2Proof.Machine.execNtChresp s
  -- MPPE from MS-CHAPv1
  | .getStartKey => Sys2Proof.Machine.execGetStartKey s
  | .getKey ckp k16 => Sys2Proof.Machine.execGetKey ckp k16 s
  | .getKey40 ckp => Sys2Proof.Machine.execGetKey40 ckp s
  | .getKey56 ckp => Sys2Proof.Machine.execGetKey56 ckp s
  | .getKey128 ckp => Sys2Proof.Machine.execGetKey128 ckp s
  -- MS-CHAPv2
  | .challengeHash => Sys2Proof.Machine.execChallengeHash s
  | .genNtResp => Sys2Proof.Machine.execGenNtResp s
  | .genAuthResp => Sys2Proof.Machine.execGenAuthResp s
  -- MPPE from MS-CHAPv2
  | .getMasterKey => Sys2Proof.Machine.execGetMasterKey s
  | .getAsymStartKey send server k16 => Sys2Proof.Machine.execGetAsymStartKey send server k16 s
  | .getSessionKeys64 => Sys2Proof.Machine.execGetSessionKeys64 s
  | .getSessionKeys128 => Sys2Proof.Machine.execGetSessionKeys128 s

end Sys2Proof.Machine
end

