-- ==== Sys2Proof/Machine/Sequencer.lean ====
section
/-! DEFINITION. The sequencer's completion step (spec 60_exceptions.md R226). -/

namespace Sys2Proof.Machine

/-- A word that is not legal completes with ILLEGAL and no result (30_encoding.md R82, R83). -/
def completeIllegal (s : State) : Host.Outcome State Fault Refusal :=
  .next (s.complete (.error .illegal))

/-- `complete()`: perform the command in CMD. "Decoding happens in the completion step" (R82). FATAL
comes before legality on both paths (`Block.finish`, R223). -/
def completePending (s : State) : Host.Outcome State Fault Refusal :=
  match decode s.blk.cmd with
  | .ok i => exec i s
  | .error _ => completeIllegal s

/-- The sequencer's turn: "enabled exactly when BUSY = 1" (R226); while BUSY = 0 there is nothing for
it to do and the turn passes (R240, log 3). -/
def sequencerTurn (s : State) : Host.Outcome State Fault Refusal :=
  if s.blk.busy then completePending s else .next s

end Sys2Proof.Machine
end

