-- ==== Sys2Proof/Machine/Step.lean ====
section
/-! DEFINITION. One step of the machine: the next event at the port (spec 00_scope.md R5, 20_memory.md
R70). -/

namespace Sys2Proof.Machine

/-- The agent that the port's list names next takes its step. With nothing left at the port only the
sequencer can be enabled: it performs a pending command, and an idle block stays as it is
(60_exceptions.md R240, log 2, log 4). -/
def step (s : State) : Host.Outcome State Fault Refusal :=
  match s.port with
  | [] => sequencerTurn s
  | .sequencer :: rest => sequencerTurn { s with port := rest }
  | .hardReset :: rest => resetStep { s with port := rest }
  | .access a :: rest => hostStep Config.hw a { s with port := rest }

/-- The state whose next step performs the command word `w`: the state an issue of `w` leaves
(60_exceptions.md R225) with the sequencer's turn next at the port (log 8). Bits above `nbits` are 0;
a command is one 32-bit word (30_encoding.md R84). -/
def State.withFetchWord (s : State) (nbits w : Nat) : State :=
  { s with blk := s.blk.issue (BitVec.ofNat 32 (w % 2 ^ nbits)), port := .sequencer :: s.port }

end Sys2Proof.Machine
end

