-- ==== Sys2Proof/Machine/HostProgram.lean ====
section
/-! DEFINITION. Host program notation: one bus operation a line, the assembler's command operand, the
pseudo-instructions and their expansions (spec 30_encoding.md R87, R88), and the host's text
encodings (00_scope.md R11). The block does not depend on this file. -/

namespace Sys2Proof.Machine

/-- One line of a host program (R87). -/
inductive HostLine where
  /-- `W32 <off>, <value>` -/
  | w32 (off : Nat) (v : Word)
  /-- `R32 <off>` -/
  | r32 (off : Nat)
  deriving DecidableEq, Repr

/-- `W32` is `MemWrite(BASE + off, 4, value)`, `R32` is `MemRead(BASE + off, 4)` (R87). -/
def hostAccess (c : Config) : HostLine → Access
  | .w32 off v => { addr := c.base + off, width := 32, op := .write v }
  | .r32 off => { addr := c.base + off, width := 32, op := .read }

/-- The lines of a program as events at the port, in order, with no sequencer turn among them; the
schedule of completions is for whoever writes the port list (log 2, log 16). -/
def portLines (c : Config) (p : List HostLine) : List PortEvent := p.map fun l => .access (hostAccess c l)

/-- The offset of the length register of a buffer (10_state.md R22). -/
def lenOffset : Buf → Nat
  | .pw => 0x024
  | .chal => 0x028
  | .user => 0x02C
  | .pchal => 0x030
  | .achal => 0x034
  | .ntresp => 0x038
  | .kin => 0x03C
  | .curkey => 0x040

/-- The command operand `MNEMONIC[.S][.V][.C][.16]`: the word of R86, refused when the opcode does not
allow a suffix (R87). -/
def assemble (a : AsmCmd) : Option Word := if a.wf then some a.word else none

/-- Bytes packed into words by R63, "padding missing bytes with 0x00" (R88). -/
def packWords : Bytes → List Word
  | [] => []
  | [a] => [wordOfLanes a 0 0 0]
  | [a, b] => [wordOfLanes a b 0 0]
  | [a, b, c] => [wordOfLanes a b c 0]
  | a :: b :: c :: d :: r => wordOfLanes a b c d :: packWords r

/-- `W32 off+4j, word_j` for every word. -/
def writeWords : Nat → List Word → List HostLine
  | _, [] => []
  | off, v :: r => .w32 off v :: writeWords (off + 4) r

/-- `LOADB <BUF>, hex:<bytes>`: the words, then the length (R88). -/
def loadb (buf : Buf) (b : Bytes) : List HostLine :=
  writeWords (bufOffset buf) (packWords b) ++ [.w32 (lenOffset buf) (BitVec.ofNat 32 b.length)]

/-- `LOADS <BUF>, ENC("text")` (R88); none where the encoding gives no bytes. -/
def loads (buf : Buf) (enc : List Char → Option Bytes) (text : List Char) : Option (List HostLine) :=
  (enc text).map (loadb buf)

/-- `SETID <v>`. -/
def setid (v : Word) : List HostLine := [.w32 0x020 v]

/-- `ISSUE <cmd>`. -/
def issueLine (a : AsmCmd) : Option (List HostLine) := (assemble a).map fun w => [.w32 0x018 w]

/-- `RDOUT n`: `R32 OUT+4j` for `j = 0 .. ceil(n/4)-1`. -/
def rdout (n : Nat) : List HostLine := (List.range ((n + 3) / 4)).map fun j => .r32 (outOffset + 4 * j)

/-- `SRST`. -/
def srst : List HostLine := [.w32 0x010 1]

/-- `WAIT`: "loop: R32 STATUS until bit 0 (BUSY) is 0" (R88). How often the loop reads BUSY = 1 is the
schedule's choice (70_reset_and_hazards.md R259): `polls` reads, then the sequencer's turn, then the
read that ends the loop (log 16). -/
def waitEvents (c : Config) (polls : Nat) : List PortEvent :=
  portLines c (List.replicate polls (.r32 0x014)) ++ [.sequencer] ++ portLines c [.r32 0x014]

/-- `ISSUEW <cmd>`: ISSUE, then WAIT (R88). -/
def issuewEvents (c : Config) (a : AsmCmd) (polls : Nat) : Option (List PortEvent) :=
  (issueLine a).map fun p => portLines c p ++ waitEvents c polls

/-! ## Host text encodings (00_scope.md R11, log 15) -/

/-- One byte per ASCII character; none for any other text. -/
def ascii : List Char → Option Bytes
  | [] => some []
  | x :: r => if x.toNat < 0x80 then (ascii r).map fun b => low8 x.toNat :: b else none

/-- `USERENC(s)`: "the username in ASCII, one byte per character". -/
def userenc (s : List Char) : Option Bytes := ascii s

/-- `LMENC(s)`: upper-cased, one byte per character. The 8-bit encoding of non-ASCII characters is in no
source (91_not_in_source.md N6), so such text gives none. -/
def lmenc (s : List Char) : Option Bytes := (ascii s).map upc

/-- `NTENC(s)`: "UTF-16LE; two bytes per BMP character, low byte first"; R11 gives no bytes for a
character outside the BMP. -/
def ntenc : List Char → Option Bytes
  | [] => some []
  | x :: r =>
    if x.toNat < 0x10000 then (ntenc r).map fun b => low8 (x.toNat % 256) :: low8 (x.toNat / 256) :: b else none

end Sys2Proof.Machine
end

