-- ==== Sys2Proof/Safety.lean ====
section
/-! DEFINITION. What counts as a safe state and a safe run of the block, in the terms claims use. -/

namespace Sys2Proof.Machine

/-- OUT[k]. -/
def Block.outByte (b : Block) (k : Nat) : Byte := b.mem.readByte (outOffset + k)

/-- What holds in every reachable state of the block: the canonical memory, the ranges of the status
record (10_state.md R26, R29, 60_exceptions.md R221, 40_stream_and_parity.md R103), and what a
pending command and a finished one leave (60_exceptions.md R225, R227, R228). -/
structure Block.Inv (b : Block) : Prop where
  /-- the memory is in canonical form (log 9) -/
  memWf : b.mem.wf
  /-- every listed byte belongs to a buffer of 10_state.md R22: reserved offsets hold nothing (R34) -/
  memInBuffers : ∀ c ∈ b.mem, (bufAt c.1).isSome = true ∨ inOut c.1 = true
  /-- `BUSY = 1 ⇒ DONE = 0 ∧ ERR = 0 ∧ ERRCODE = 0 ∧ ERROP = 0` (R26), and OUT_LEN = 0 (R225) -/
  pendingClear : b.busy = true →
    b.done = false ∧ b.err = false ∧ b.errcode = 0 ∧ b.errop = 0 ∧ b.outLen = 0
  /-- `ERR = 1 ⇔ ERRCODE != 0` (R26) -/
  errIffCode : b.err = true ↔ b.errcode ≠ 0
  /-- codes 5 to 15 are never produced (R221) -/
  codeRange : b.errcode.toNat ≤ 4
  /-- LENGTH reports one of the operand ids 2 to 9 (R103) -/
  lengthInfo : b.errcode = 2 → 2 ≤ b.errop.toNat ∧ b.errop.toNat ≤ 9
  /-- PRIM reports one of the primitive ids 1 to 4 and leaves FATAL = 1 (R224) -/
  primInfo : b.errcode = 3 → 1 ≤ b.errop.toNat ∧ b.errop.toNat ≤ 4 ∧ b.fatal = true
  /-- every other code reports 0 (R221) -/
  otherInfo : b.errcode ≠ 2 → b.errcode ≠ 3 → b.errop = 0
  /-- the code FATAL stands only while FATAL = 1 (R221) -/
  fatalInfo : b.errcode = 4 → b.fatal = true
  /-- OUT_LEN is "one of 0, 8, 16, 24, 32, 42" (R29) -/
  outLenValue : b.outLen.toNat ∈ [0, 8, 16, 24, 32, 42]
  /-- "never both and never a partial result" (R108, R228) -/
  errNoResult : b.err = true → b.outLen = 0
  /-- an outcome stands only after a completion (R226) -/
  recordNeedsDone : b.done = false → b.err = false ∧ b.outLen = 0
  /-- the bytes of OUT after the result are 0 (R108, R225) -/
  outTail : ∀ k, b.outLen.toNat ≤ k → k < outCap → b.outByte k = 0

/-- The invariant of the machine: the block's. The port list and the last reply are the outside
world's and may be anything. -/
def State.Inv (s : State) : Prop := s.blk.Inv

/-- An access the block does not answer with a bus error: outside the window, or 32 bits wide at an
offset divisible by 4 (20_memory.md R61, R62). -/
def Access.clean (c : Config) (a : Access) : Prop :=
  match windowOffset c a.addr with
  | none => True
  | some off => a.width = 32 ∧ off % 4 = 0

/-- A port list none of whose accesses is a bus error: a run over it never faults. -/
def portClean (c : Config) (p : List PortEvent) : Prop := ∀ a, PortEvent.access a ∈ p → a.clean c

/-- `BUSY = 1` and the state of the block that R225 leaves at issue as far as a completion looks at it:
the clear record and the zeroed OUT, which hold until the completion (R45, R255). -/
def Block.pending (b : Block) : Prop :=
  b.busy = true ∧ b.done = false ∧ b.err = false ∧ b.errcode = 0 ∧ b.errop = 0 ∧ b.outLen = 0 ∧
    ∀ k, k < outCap → b.outByte k = 0

/-! ## The rows of 30_encoding.md R85, for claims about every command -/

/-- The "operands (check order)" column of R85 as the buffer and its mandated length: `need(B, n)` is
`(B, n)`, `var(B)` is `(B, 0)`. ID has no check; CURKEY stands only where CKP = 1. -/
def operandRow : Instr → List (Buf × Nat)
  | .pexp => [(.kin, 7)]
  | .chapResp => [(.pw, 0), (.chal, 0)]
  | .lmHash | .ntHash | .ntHashHash => [(.pw, 0)]
  | .v1Chresp => [(.chal, 8), (.kin, 16)]
  | .lmChresp | .ntChresp => [(.chal, 8), (.pw, 0)]
  | .getStartKey => [(.chal, 8), (.kin, 16)]
  | .getKey ckp k16 => (.kin, if k16 then 16 else 8) :: if ckp then [(.curkey, if k16 then 16 else 8)] else []
  | .getKey40 ckp | .getKey56 ckp => (.pw, 0) :: if ckp then [(.curkey, 8)] else []
  | .getKey128 ckp => (.chal, 8) :: (.pw, 0) :: if ckp then [(.curkey, 16)] else []
  | .challengeHash => [(.pchal, 16), (.achal, 16), (.user, 0)]
  | .genNtResp => [(.achal, 16), (.pchal, 16), (.user, 0), (.pw, 0)]
  | .genAuthResp => [(.pw, 0), (.ntresp, 24), (.pchal, 16), (.achal, 16), (.user, 0)]
  | .getMasterKey => [(.kin, 16), (.ntresp, 24)]
  | .getAsymStartKey _ _ _ => [(.kin, 16)]
  | .getSessionKeys64 | .getSessionKeys128 => [(.pw, 0), (.ntresp, 24)]

/-- The "primitives" column of R85, in ascending order of the ids of 60_exceptions.md R224. -/
def primRow : Instr → List Prim
  | .pexp => []
  | .chapResp => [.md5]
  | .lmHash | .v1Chresp | .lmChresp => [.des]
  | .ntHash | .ntHashHash => [.md4]
  | .ntChresp => [.md4, .des]
  | .getStartKey | .getKey _ _ | .challengeHash | .getMasterKey | .getAsymStartKey _ _ _ => [.sha1]
  | .getKey40 _ | .getKey56 _ => [.sha1, .des]
  | .getKey128 _ | .genAuthResp | .getSessionKeys64 | .getSessionKeys128 => [.md4, .sha1]
  | .genNtResp => [.md4, .sha1, .des]

/-- The "result bytes" column of R85. -/
def resultBytes : Instr → Nat
  | .pexp | .getKey40 _ | .getKey56 _ | .challengeHash => 8
  | .chapResp | .lmHash | .ntHash | .ntHashHash | .getStartKey | .getKey128 _ | .getMasterKey
  | .getSessionKeys64 => 16
  | .v1Chresp | .lmChresp | .ntChresp | .genNtResp => 24
  | .getKey _ k16 | .getAsymStartKey _ _ k16 => if k16 then 16 else 8
  | .genAuthResp => 42
  | .getSessionKeys128 => 32

/-- An operand check passes: the mandated length is reached and the capacity is not exceeded
(40_stream_and_parity.md R104, R105). -/
def Block.passes (b : Block) (o : Buf × Nat) : Prop :=
  o.2 ≤ (b.lenOf o.1).toNat ∧ (b.lenOf o.1).toNat ≤ bufCap o.1

/-! ## How a command ends (60_exceptions.md R227, R228) -/

/-- Byte `k` of an operand buffer. -/
def Block.bufByte (b : Block) (buf : Buf) (k : Nat) : Byte := b.mem.readByte (bufOffset buf + k)

/-- The first `n` bytes of an operand buffer. -/
def Block.bytes (b : Block) (buf : Buf) (n : Nat) : Bytes := (List.range n).map (b.bufByte buf)

/-- What every completion leaves and writes: BUSY = 0, DONE = 1, and no operand buffer, length
register, ID, CMD or BWE changed; nor the host's side of the port. Every byte outside OUT is as
before. -/
structure Completed (s t : State) : Prop where
  busy : t.blk.busy = false
  done : t.blk.done = true
  cmd : t.blk.cmd = s.blk.cmd
  bwe : t.blk.bwe = s.blk.bwe
  id : t.blk.id = s.blk.id
  lens : ∀ buf, t.blk.lenOf buf = s.blk.lenOf buf
  memory : ∀ x, inOut x = false → t.blk.mem.readByte x = s.blk.mem.readByte x
  port : t.port = s.port
  reply : t.reply = s.reply

/-- R227: success with result `r`. -/
structure Succeeded (s t : State) (r : Bytes) : Prop extends Completed s t where
  result : ∀ k (h : k < r.length), t.blk.outByte k = r[k]
  rest : ∀ k, r.length ≤ k → k < outCap → t.blk.outByte k = 0
  outLen : t.blk.outLen.toNat = r.length
  err : t.blk.err = false
  errcode : t.blk.errcode = 0
  errop : t.blk.errop = 0
  fatal : t.blk.fatal = s.blk.fatal

/-- R228: error completion with code `code` and info `info`; FATAL = 1 if the code is PRIM (3),
otherwise as before. -/
structure Failed (s t : State) (code info : BitVec 4) : Prop extends Completed s t where
  out : ∀ k, k < outCap → t.blk.outByte k = 0
  outLen : t.blk.outLen = 0
  err : t.blk.err = true
  errcode : t.blk.errcode = code
  errop : t.blk.errop = info
  fatal : t.blk.fatal = (s.blk.fatal || code == 3)

/-! ## The spec's functions as relations, written apart from the meanings -/

/-- `o` is the parity expansion of `k` in the closed form of 40_stream_and_parity.md R111: bit 0 of every
byte is 1, and bits 7..1 of byte `i` are the input bits `7i .. 7i+6`, most significant first. -/
def IsPar (k : BytesN 7) (o : BytesN 8) : Prop :=
  ∀ i, i < 8 → (o.toList.getD i 0).getLsbD 0 = true ∧
    ∀ j, j < 7 → (o.toList.getD i 0).getMsbD j = (k.toList.getD ((7 * i + j) / 8) 0).getMsbD ((7 * i + j) % 8)

/-- `r` is DES of the block `p` under the parity expansion of `k` (R112). -/
def IsDesx (c : Config) (k : BytesN 7) (p r : BytesN 8) : Prop := ∃ o, IsPar k o ∧ r = c.des o p

/-- ASCII text as bytes (00_scope.md R8). -/
def asciiBytes (text : String) : Bytes := text.toList.map fun c => BitVec.ofNat 8 c.toNat

/-- `h` is the LM hash of `pw`: ASCII lower case raised, padded or cut to 14 bytes, the literal KGS!@#$%
encrypted with each half (42_mschapv1.md R140, R141). -/
def IsLmHash (c : Config) (pw : Bytes) (h : BytesN 16) : Prop :=
  ∃ (k1 k2 : BytesN 7) (magic r1 r2 : BytesN 8),
    k1.toList ++ k2.toList =
      ((pw.map fun x : Byte => if 0x61 ≤ x.toNat ∧ x.toNat ≤ 0x7A then BitVec.ofNat 8 (x.toNat - 0x20) else x)
        ++ List.replicate 14 0).take 14 ∧
    magic.toList = asciiBytes "KGS!@#$%" ∧
    IsDesx c k1 magic r1 ∧ IsDesx c k2 magic r2 ∧ h.toList = r1.toList ++ r2.toList

/-- `r` is the 24-byte response to the challenge `ch` under the hash `h`: three encryptions under the
7-byte slices of `h` and five zero bytes (42_mschapv1.md R143). -/
def IsChresp (c : Config) (ch : BytesN 8) (h : BytesN 16) (r : Bytes) : Prop :=
  ∃ (k1 k2 k3 : BytesN 7) (r1 r2 r3 : BytesN 8),
    k1.toList ++ k2.toList ++ k3.toList = h.toList ++ List.replicate 5 0 ∧
    IsDesx c k1 ch r1 ∧ IsDesx c k2 ch r2 ∧ IsDesx c k3 ch r3 ∧
    r = r1.toList ++ r2.toList ++ r3.toList

/-- The `L`-byte key of one GetKey step (43_mschapv1_mppe.md R161). -/
def getKeyBytes (c : Config) (ik ck : Bytes) (L : Nat) : Bytes :=
  (c.sha1 (ik.take L ++ List.replicate 40 0 ++ ck.take L ++ List.replicate 40 0xF2)).toList.take L

/-- The `L`-byte asymmetric start key (45_mschapv2_mppe.md R201, R202). -/
def asymKeyBytes (c : Config) (mk : Bytes) (L : Nat) (isSend isServer : Bool) : Bytes :=
  (c.sha1 (mk.take 16 ++ List.replicate 40 0 ++
    asciiBytes (if isSend = isServer
      then "On the client side, this is the receive key; on the server side, it is the send key."
      else "On the client side, this is the send key; on the server side, it is the receive key.")
    ++ List.replicate 40 0xF2)).toList.take L

/-- The 8-byte challenge hash (44_mschapv2.md R180). -/
def challengeHashBytes (c : Config) (pc ac u : Bytes) : Bytes := (c.sha1 (pc ++ ac ++ u)).toList.take 8

/-- Upper-case hexadecimal, high nibble first (40_stream_and_parity.md R109). -/
def hexText (d : Bytes) : Bytes :=
  d.flatMap fun x : Byte => [x.toNat / 16, x.toNat % 16].map fun n => BitVec.ofNat 8 (if n < 10 then 0x30 + n else 0x37 + n)

end Sys2Proof.Machine
end

