-- ==== Sys2Proof/Certificates/Slice0/Obligations.lean ====
section
/-! DEFINITION. The statements for the provers. Each says which rule or section of the spec it comes
from. A statement about `exec` or `step` speaks of the opaque configuration `Config.hw`, so it holds
for every BASE, every PRIM_AVAIL and every choice of the primitive functions. Where a statement names
`port` or `reply` it speaks of the model's own two fields: the list that says which of the three agents
steps next (logs 2, 3, 4) and what the port answered last (logs 5, 10); the spec fixes neither. -/

open Sys2Proof Sys2Proof.Machine

/-! ## Encoding -/

/-- No bit of a command word is dropped: a word decodes to a command exactly when it is that command's
word (30_encoding.md R80, R85, R86; legality as R82's second form has it, log 21). -/
def Obligations.DecodeAndEncodeAgree : Prop :=
  ∀ (w : Word) (i : Instr), decode w = .ok i ↔ encode i = w

/-- The decoder accepts exactly the words of opcode_table.json's rows, `w & mask = match`
(30_encoding.md R82, second form; R82's first formula is read as a slip, log 21). -/
def Obligations.DecodeAcceptsExactlyTheTable : Prop :=
  ∀ w : Word, (∃ i, decode w = .ok i) ↔
    ∃ row ∈ ([(0xFFFFFFFF, 0x01), (0xFFFFFFFF, 0x10), (0xFFFFFFFF, 0x20), (0xFFFFFFFF, 0x21),
        (0xFFFFFFFF, 0x22), (0xFFFFFFFF, 0x23), (0xFFFFFFFF, 0x24), (0xFFFFFFFF, 0x25),
        (0xFFFFFFFF, 0x28), (0xFFFFF3FF, 0x29), (0xFFFFFBFF, 0x2A), (0xFFFFFBFF, 0x2B),
        (0xFFFFFBFF, 0x2C), (0xFFFFFFFF, 0x30), (0xFFFFFFFF, 0x31), (0xFFFFFFFF, 0x32),
        (0xFFFFFFFF, 0x38), (0xFFFFF4FF, 0x39), (0xFFFFFFFF, 0x3A), (0xFFFFFFFF, 0x3B)] : List (Word × Word)),
      w &&& row.1 = row.2

/-- Words written out from 30_encoding.md R86, one or more of every family, decode to the commands they
stand for (a sanity statement). -/
def Obligations.WordsOfTheSpecDecode : Prop :=
  decode 0x00000001 = .ok .pexp ∧ decode 0x00000010 = .ok .chapResp ∧ decode 0x00000025 = .ok .ntChresp ∧
  decode 0x00000829 = .ok (.getKey false true) ∧ decode 0x0000042A = .ok (.getKey40 true) ∧
  decode 0x00000031 = .ok .genNtResp ∧ decode 0x00000A39 = .ok (.getAsymStartKey false true true) ∧
  decode 0x00000139 = .ok (.getAsymStartKey true false false) ∧ decode 0x0000003B = .ok .getSessionKeys128

/-- A pending word that no row of the table matches, opcode 0x00 included, ends with ILLEGAL and has no
other effect (30_encoding.md R83, 60_exceptions.md R221). That the sequencer moves when nothing is left at
the port is the model's choice (log 4). -/
def Obligations.UnlistedWordEndsIllegal : Prop :=
  ∀ s : State, s.blk.pending → s.blk.fatal = false → s.port = [] → (∀ i, encode i ≠ s.blk.cmd) →
    ∃ t, step s = .next t ∧ Failed s t 1 0

/-- The assembler gives a word exactly to the commands whose suffixes the opcode allows, and the word
is the one that decodes to that command (30_encoding.md R87). -/
def Obligations.AssemblerRefusesDisallowedSuffix : Prop :=
  ∀ a : AsmCmd,
    (a.wf = true ↔
      (a.flags.send = true → a.mnemonic = .getAsymStartKey) ∧
      (a.flags.server = true → a.mnemonic = .getAsymStartKey) ∧
      (a.flags.ckp = true → a.mnemonic ∈ [Mnemonic.getKey, .getKey40, .getKey56, .getKey128]) ∧
      (a.flags.k16 = true → a.mnemonic ∈ [Mnemonic.getKey, .getAsymStartKey])) ∧
    (a.wf = false → assemble a = none) ∧
    (a.wf = true → ∃ w, assemble a = some w ∧ decode w = .ok a.build ∧ a.build.asm = a)

/-! ## The step -/

/-- The sequencer's step on a pending word that decodes to `i` is `exec i`, both when the port's list
gives the sequencer the turn and when nothing is left at the port (60_exceptions.md R226; the port list is
the model's choice, logs 2 and 4). -/
def Obligations.StepRunsTheDecodedCommand : Prop :=
  ∀ (s : State) (i : Instr), s.blk.busy = true → decode s.blk.cmd = .ok i →
    (s.port = [] → step s = exec i s) ∧
    (∀ rest, s.port = .sequencer :: rest → step s = exec i { s with port := rest })

/-- `withFetchWord` puts a command's word where the very next step performs it (the model's choice, log
8: the spec loads no program). -/
def Obligations.FetchWordRunsNext : Prop :=
  ∀ (s : State) (i : Instr),
    step (s.withFetchWord 32 (encode i).toNat) = exec i { s with blk := s.blk.issue (encode i) }

/-- While FATAL = 1 every command word, legal or not, ends with the code FATAL and no result
(60_exceptions.md R221, R223 step 1; the empty port is the model's choice, log 4). -/
def Obligations.FatalBlocksEveryWord : Prop :=
  ∀ s : State, s.blk.pending → s.blk.fatal = true → s.port = [] → ∃ t, step s = .next t ∧ Failed s t 4 0

/-- FATAL is sticky: only a hard reset or a CTRL write with bit 0 set clears it (60_exceptions.md R224,
70_reset_and_hazards.md R251). -/
def Obligations.FatalClearedOnlyByReset : Prop :=
  ∀ s t : State, step s = .next t → s.blk.fatal = true → t.blk.fatal = false →
    (∃ rest, s.port = .hardReset :: rest) ∨
    (∃ v rest, s.port = .access ⟨Config.hw.base + 0x010, 32, .write v⟩ :: rest ∧ v.getLsbD 0 = true)

/-! ## How commands end, for all commands at once -/

/-- A pending word ends in exactly one of two ways: success with the result bytes of its row, or an
error with one of the codes 1 to 4 (60_exceptions.md R220, R227, R228; the empty port is the model's
choice, log 4). -/
def Obligations.EveryCommandEndsOneWay : Prop :=
  ∀ s : State, s.blk.pending → s.port = [] → ∃ t, step s = .next t ∧
    (t.blk.err = true ↔ t.blk.outLen = 0) ∧
    ((∃ i r, decode s.blk.cmd = .ok i ∧ r.length = resultBytes i ∧ Succeeded s t r) ∨
     (∃ code info : BitVec 4, 1 ≤ code.toNat ∧ code.toNat ≤ 4 ∧ Failed s t code info))

/-- The frame of all twenty commands, in every state: a command that answers a next state leaves every
length register, ID, CMD, BWE and the host's side as they are, never clears FATAL, and changes no byte
of memory but the first "result bytes" of OUT (10_state.md R46, R48; 40_stream_and_parity.md R108). -/
def Obligations.CommandFrame : Prop :=
  ∀ (i : Instr) (s t : State), exec i s = .next t →
    (∀ buf, t.blk.lenOf buf = s.blk.lenOf buf) ∧ t.blk.id = s.blk.id ∧ t.blk.cmd = s.blk.cmd ∧
    t.blk.bwe = s.blk.bwe ∧ t.port = s.port ∧ t.reply = s.reply ∧
    (s.blk.fatal = true → t.blk.fatal = true) ∧
    (∀ x, x < 0x180 ∨ 0x180 + resultBytes i ≤ x → t.blk.mem.readByte x = s.blk.mem.readByte x) ∧
    (t.blk.errcode ≠ s.blk.errcode → ∀ x, t.blk.mem.readByte x = s.blk.mem.readByte x)

/-- "The block never writes an operand buffer, a length register or ID. Only host writes (and reset)
change them" (10_state.md R46). -/
def Obligations.OnlyHostOrResetChangesOperands : Prop :=
  ∀ s t : State, step s = .next t → (∀ rest, s.port ≠ .hardReset :: rest) →
    (∀ a v rest, s.port = .access a :: rest → a.op ≠ .write v) →
    t.blk.id = s.blk.id ∧ (∀ buf, t.blk.lenOf buf = s.blk.lenOf buf) ∧
    (∀ buf k, k < bufCap buf → t.blk.bufByte buf k = s.blk.bufByte buf k)

/-- Operands are checked in the order of R85's row, and the first failing check ends the command with
LENGTH and that operand's id; CURKEY is in the row only when CKP = 1 (40_stream_and_parity.md R106,
R103, R104, R105). -/
def Obligations.FirstBadOperandEndsLength : Prop :=
  ∀ (i : Instr) (s : State) (before after : List (Buf × Nat)) (bad : Buf × Nat),
    s.blk.pending → s.blk.fatal = false → operandRow i = before ++ bad :: after →
    (∀ o ∈ before, s.blk.passes o) → ¬ s.blk.passes bad →
    ∃ t, exec i s = .next t ∧
      Failed s t 2 (match bad.1 with
        | .pw => 2 | .chal => 3 | .user => 4 | .pchal => 5 | .achal => 6 | .ntresp => 7 | .kin => 8
        | .curkey => 9)

/-- With every operand check passed, a command ends with PRIM of the lowest-numbered primitive of its
row that PRIM_AVAIL lacks (and FATAL = 1), and with a result when it lacks none
(40_stream_and_parity.md R107, 60_exceptions.md R224). -/
def Obligations.MissingPrimitiveEndsPrim : Prop :=
  ∀ (i : Instr) (s : State), s.blk.pending → s.blk.fatal = false → (∀ o ∈ operandRow i, s.blk.passes o) →
    ∃ t, exec i s = .next t ∧
      match (primRow i).find? (fun p => !Config.hw.avail.has p) with
      | some .md4 => Failed s t 3 1
      | some .md5 => Failed s t 3 2
      | some .sha1 => Failed s t 3 3
      | some .des => Failed s t 3 4
      | none => ∃ r, r.length = resultBytes i ∧ Succeeded s t r

/-! ## What each command computes -/

/-- PEXP: on KIN_LEN 7 to 16 the result is the 8-byte closed form of R111 of KIN[0..6]
(40_stream_and_parity.md R111, R113). -/
def Obligations.PexpExpandsTheKey : Prop :=
  ∀ s : State, s.blk.pending → s.blk.fatal = false → 7 ≤ s.blk.kinLen.toNat → s.blk.kinLen.toNat ≤ 16 →
    ∀ k : BytesN 7, k.toList = s.blk.bytes .kin 7 →
    ∃ t, exec .pexp s = .next t ∧ ∃ o, IsPar k o ∧ Succeeded s t o.toList

/-- CHAP_RESP: MD5 over ID, the password bytes and the whole challenge (41_chap.md R130). -/
def Obligations.ChapRespHashesIdPasswordChallenge : Prop :=
  ∀ s : State, s.blk.pending → s.blk.fatal = false → s.blk.pwLen.toNat ≤ 512 → s.blk.chLen.toNat ≤ 256 →
    ∃ t, exec .chapResp s = .next t ∧
      if Config.hw.avail.md5 = true then
        Succeeded s t (Config.hw.md5
          (s.blk.id :: (s.blk.bytes .pw s.blk.pwLen.toNat ++ s.blk.bytes .chal s.blk.chLen.toNat))).toList
      else Failed s t 3 2

/-- LM_HASH: the LM hash of the password bytes (42_mschapv1.md R140, R141). -/
def Obligations.LmHashComputesLmHash : Prop :=
  ∀ s : State, s.blk.pending → s.blk.fatal = false → s.blk.pwLen.toNat ≤ 512 →
    ∃ t, exec .lmHash s = .next t ∧
      if Config.hw.avail.des = true then
        ∃ h, IsLmHash Config.hw (s.blk.bytes .pw s.blk.pwLen.toNat) h ∧ Succeeded s t h.toList
      else Failed s t 3 4

/-- NT_HASH and NT_HASH_HASH: MD4 of the password bytes, and MD4 of its 16 raw digest bytes
(42_mschapv1.md R142). -/
def Obligations.NtHashAndHashHash : Prop :=
  ∀ s : State, s.blk.pending → s.blk.fatal = false → s.blk.pwLen.toNat ≤ 512 →
    ∃ t u, exec .ntHash s = .next t ∧ exec .ntHashHash s = .next u ∧
      if Config.hw.avail.md4 = true then
        Succeeded s t (Config.hw.md4 (s.blk.bytes .pw s.blk.pwLen.toNat)).toList ∧
        Succeeded s u (Config.hw.md4 (Config.hw.md4 (s.blk.bytes .pw s.blk.pwLen.toNat)).toList).toList
      else Failed s t 3 1 ∧ Failed s u 3 1

/-- V1_CHRESP: three encryptions of CHAL[0..7] under the slices of KIN and five zero bytes
(42_mschapv1.md R143). -/
def Obligations.V1ChrespEncryptsThreeTimes : Prop :=
  ∀ s : State, s.blk.pending → s.blk.fatal = false → 8 ≤ s.blk.chLen.toNat → s.blk.chLen.toNat ≤ 256 →
    s.blk.kinLen.toNat = 16 → ∀ (ch : BytesN 8) (h : BytesN 16),
    ch.toList = s.blk.bytes .chal 8 → h.toList = s.blk.bytes .kin 16 →
    ∃ t, exec .v1Chresp s = .next t ∧
      if Config.hw.avail.des = true then ∃ r, IsChresp Config.hw ch h r ∧ Succeeded s t r
      else Failed s t 3 4

/-- LM_CHRESP: the response under the LM hash of the password (42_mschapv1.md R140, R141, R143). -/
def Obligations.LmChrespUsesLmHash : Prop :=
  ∀ s : State, s.blk.pending → s.blk.fatal = false → 8 ≤ s.blk.chLen.toNat → s.blk.chLen.toNat ≤ 256 →
    s.blk.pwLen.toNat ≤ 512 → ∀ ch : BytesN 8, ch.toList = s.blk.bytes .chal 8 →
    ∃ t, exec .lmChresp s = .next t ∧
      if Config.hw.avail.des = true then
        ∃ h r, IsLmHash Config.hw (s.blk.bytes .pw s.blk.pwLen.toNat) h ∧ IsChresp Config.hw ch h r ∧
          Succeeded s t r
      else Failed s t 3 4

/-- NT_CHRESP: the response under the NT hash of the password (42_mschapv1.md R142, R143). -/
def Obligations.NtChrespUsesNtHash : Prop :=
  ∀ s : State, s.blk.pending → s.blk.fatal = false → 8 ≤ s.blk.chLen.toNat → s.blk.chLen.toNat ≤ 256 →
    s.blk.pwLen.toNat ≤ 512 → ∀ ch : BytesN 8, ch.toList = s.blk.bytes .chal 8 →
    ∃ t, exec .ntChresp s = .next t ∧
      if Config.hw.avail.md4 = false then Failed s t 3 1
      else if Config.hw.avail.des = false then Failed s t 3 4
      else ∃ r, IsChresp Config.hw ch (Config.hw.md4 (s.blk.bytes .pw s.blk.pwLen.toNat)) r ∧ Succeeded s t r

/-- GET_START_KEY: the first 16 bytes of SHA-1 over the hash-hash twice and the challenge
(43_mschapv1_mppe.md R160). -/
def Obligations.GetStartKeyHashesTwice : Prop :=
  ∀ s : State, s.blk.pending → s.blk.fatal = false → 8 ≤ s.blk.chLen.toNat → s.blk.chLen.toNat ≤ 256 →
    s.blk.kinLen.toNat = 16 →
    ∃ t, exec .getStartKey s = .next t ∧
      if Config.hw.avail.sha1 = true then
        Succeeded s t ((Config.hw.sha1
          (s.blk.bytes .kin 16 ++ s.blk.bytes .kin 16 ++ s.blk.bytes .chal 8)).toList.take 16)
      else Failed s t 3 3

/-- GET_KEY, all four forms: the current key is CURKEY if CKP = 1 and the initial key otherwise
(43_mschapv1_mppe.md R161, R162; 30_encoding.md R81). -/
def Obligations.GetKeyDerivesKey : Prop :=
  ∀ (ckp k16 : Bool) (s : State) (L : Nat), L = (if k16 then 16 else 8) →
    s.blk.pending → s.blk.fatal = false → L ≤ s.blk.kinLen.toNat → s.blk.kinLen.toNat ≤ 16 →
    (ckp = true → L ≤ s.blk.ckLen.toNat ∧ s.blk.ckLen.toNat ≤ 16) →
    ∃ t, exec (.getKey ckp k16) s = .next t ∧
      if Config.hw.avail.sha1 = true then
        Succeeded s t (getKeyBytes Config.hw (s.blk.bytes .kin L)
          (if ckp then s.blk.bytes .curkey L else s.blk.bytes .kin L) L)
      else Failed s t 3 3

/-- GET_KEY_40 and GET_KEY_56: GetKey with length 8 from the first 8 bytes of the LM hash, then the
leading bytes overwritten with D1 26 9E or D1 (43_mschapv1_mppe.md R163). -/
def Obligations.WeakKeysFromLmHash : Prop :=
  ∀ (ckp : Bool) (s : State), s.blk.pending → s.blk.fatal = false → s.blk.pwLen.toNat ≤ 512 →
    (ckp = true → 8 ≤ s.blk.ckLen.toNat ∧ s.blk.ckLen.toNat ≤ 16) →
    ∃ t u, exec (.getKey40 ckp) s = .next t ∧ exec (.getKey56 ckp) s = .next u ∧
      if Config.hw.avail.sha1 = false then Failed s t 3 3 ∧ Failed s u 3 3
      else if Config.hw.avail.des = false then Failed s t 3 4 ∧ Failed s u 3 4
      else ∃ h, IsLmHash Config.hw (s.blk.bytes .pw s.blk.pwLen.toNat) h ∧
        ∃ key, key = getKeyBytes Config.hw (h.toList.take 8)
            (if ckp then s.blk.bytes .curkey 8 else h.toList.take 8) 8 ∧
          Succeeded s t ([0xD1, 0x26, 0x9E] ++ key.drop 3) ∧ Succeeded s u ([0xD1] ++ key.drop 1)

/-- GET_KEY_128: the hash-hash of the password through the start key, then GetKey with length 16
(43_mschapv1_mppe.md R160, R161, R168). -/
def Obligations.GetKey128FromHashHash : Prop :=
  ∀ (ckp : Bool) (s : State), s.blk.pending → s.blk.fatal = false →
    8 ≤ s.blk.chLen.toNat → s.blk.chLen.toNat ≤ 256 → s.blk.pwLen.toNat ≤ 512 →
    (ckp = true → s.blk.ckLen.toNat = 16) →
    ∃ t, exec (.getKey128 ckp) s = .next t ∧
      if Config.hw.avail.md4 = false then Failed s t 3 1
      else if Config.hw.avail.sha1 = false then Failed s t 3 3
      else ∃ hh ik : Bytes,
        hh = (Config.hw.md4 (Config.hw.md4 (s.blk.bytes .pw s.blk.pwLen.toNat)).toList).toList ∧
        ik = (Config.hw.sha1 (hh ++ hh ++ s.blk.bytes .chal 8)).toList.take 16 ∧
        Succeeded s t (getKeyBytes Config.hw ik (if ckp then s.blk.bytes .curkey 16 else ik) 16)

/-- CHALLENGE_HASH: the first 8 bytes of SHA-1 over peer challenge, authenticator challenge, username, in
that order (44_mschapv2.md R180). -/
def Obligations.ChallengeHashPeerFirst : Prop :=
  ∀ s : State, s.blk.pending → s.blk.fatal = false → s.blk.pcLen.toNat = 16 → s.blk.acLen.toNat = 16 →
    s.blk.userLen.toNat ≤ 256 →
    ∃ t, exec .challengeHash s = .next t ∧
      if Config.hw.avail.sha1 = true then
        Succeeded s t ((Config.hw.sha1 (s.blk.bytes .pchal 16 ++ s.blk.bytes .achal 16 ++
          s.blk.bytes .user s.blk.userLen.toNat)).toList.take 8)
      else Failed s t 3 3

/-- GEN_NT_RESP: the MS-CHAPv1 response to the challenge hash under the NT hash of the password
(44_mschapv2.md R181). -/
def Obligations.GenNtRespComposes : Prop :=
  ∀ s : State, s.blk.pending → s.blk.fatal = false → s.blk.pcLen.toNat = 16 → s.blk.acLen.toNat = 16 →
    s.blk.userLen.toNat ≤ 256 → s.blk.pwLen.toNat ≤ 512 →
    ∃ t, exec .genNtResp s = .next t ∧
      if Config.hw.avail.md4 = false then Failed s t 3 1
      else if Config.hw.avail.sha1 = false then Failed s t 3 3
      else if Config.hw.avail.des = false then Failed s t 3 4
      else ∃ (ch : BytesN 8) (r : Bytes),
        ch.toList = challengeHashBytes Config.hw (s.blk.bytes .pchal 16) (s.blk.bytes .achal 16)
          (s.blk.bytes .user s.blk.userLen.toNat) ∧
        IsChresp Config.hw ch (Config.hw.md4 (s.blk.bytes .pw s.blk.pwLen.toNat)) r ∧ Succeeded s t r

/-- GEN_AUTH_RESP: "S=" and the 40 upper-case digits of the authenticator digest (44_mschapv2.md R182,
R183, R184). -/
def Obligations.GenAuthRespIsText : Prop :=
  ∀ s : State, s.blk.pending → s.blk.fatal = false → s.blk.pwLen.toNat ≤ 512 → s.blk.nrLen.toNat = 24 →
    s.blk.pcLen.toNat = 16 → s.blk.acLen.toNat = 16 → s.blk.userLen.toNat ≤ 256 →
    ∃ t, exec .genAuthResp s = .next t ∧
      if Config.hw.avail.md4 = false then Failed s t 3 1
      else if Config.hw.avail.sha1 = false then Failed s t 3 3
      else ∃ hh pwDigest digest : Bytes,
        hh = (Config.hw.md4 (Config.hw.md4 (s.blk.bytes .pw s.blk.pwLen.toNat)).toList).toList ∧
        pwDigest = (Config.hw.sha1
          (hh ++ s.blk.bytes .ntresp 24 ++ asciiBytes "Magic server to client signing constant")).toList ∧
        digest = (Config.hw.sha1
          (pwDigest ++ challengeHashBytes Config.hw (s.blk.bytes .pchal 16) (s.blk.bytes .achal 16)
            (s.blk.bytes .user s.blk.userLen.toNat) ++
            asciiBytes "Pad to make it do more than one iteration")).toList ∧
        Succeeded s t (asciiBytes "S=" ++ hexText digest)

/-- GET_MASTER_KEY: the first 16 bytes of SHA-1 over hash-hash, NT-response and the 27-byte magic
(45_mschapv2_mppe.md R200). -/
def Obligations.GetMasterKeyHashes : Prop :=
  ∀ s : State, s.blk.pending → s.blk.fatal = false → s.blk.kinLen.toNat = 16 → s.blk.nrLen.toNat = 24 →
    ∃ t, exec .getMasterKey s = .next t ∧
      if Config.hw.avail.sha1 = true then
        Succeeded s t ((Config.hw.sha1 (s.blk.bytes .kin 16 ++ s.blk.bytes .ntresp 24 ++
          asciiBytes "This is the MPPE Master Key")).toList.take 16)
      else Failed s t 3 3

/-- GET_ASYM_START_KEY, all eight forms (45_mschapv2_mppe.md R201, R202). -/
def Obligations.GetAsymStartKeySelectsMagic : Prop :=
  ∀ (send server k16 : Bool) (s : State), s.blk.pending → s.blk.fatal = false → s.blk.kinLen.toNat = 16 →
    ∃ t, exec (.getAsymStartKey send server k16) s = .next t ∧
      if Config.hw.avail.sha1 = true then
        Succeeded s t (asymKeyBytes Config.hw (s.blk.bytes .kin 16) (if k16 then 16 else 8) send server)
      else Failed s t 3 3

/-- GET_SESSION_KEYS_64 and GET_SESSION_KEYS_128: send key then receive key from the master key of the
hash-hash, both with isServer = true (45_mschapv2_mppe.md R203). -/
def Obligations.SessionKeysSendThenReceive : Prop :=
  ∀ s : State, s.blk.pending → s.blk.fatal = false → s.blk.pwLen.toNat ≤ 512 → s.blk.nrLen.toNat = 24 →
    ∃ t u, exec .getSessionKeys64 s = .next t ∧ exec .getSessionKeys128 s = .next u ∧
      if Config.hw.avail.md4 = false then Failed s t 3 1 ∧ Failed s u 3 1
      else if Config.hw.avail.sha1 = false then Failed s t 3 3 ∧ Failed s u 3 3
      else ∃ hh mk : Bytes,
        hh = (Config.hw.md4 (Config.hw.md4 (s.blk.bytes .pw s.blk.pwLen.toNat)).toList).toList ∧
        mk = (Config.hw.sha1
          (hh ++ s.blk.bytes .ntresp 24 ++ asciiBytes "This is the MPPE Master Key")).toList.take 16 ∧
        Succeeded s t (asymKeyBytes Config.hw mk 8 true true ++ asymKeyBytes Config.hw mk 8 false true) ∧
        Succeeded s u (asymKeyBytes Config.hw mk 16 true true ++ asymKeyBytes Config.hw mk 16 false true)

/-! ## Relations between commands -/

/-- GET_KEY_40 and GET_KEY_56 on the same inputs agree in bytes 3 to 7 (43_mschapv1_mppe.md R167). -/
def Obligations.WeakKeysAgreeFromByteThree : Prop :=
  ∀ (ckp : Bool) (s t u : State), s.blk.pending → exec (.getKey40 ckp) s = .next t →
    exec (.getKey56 ckp) s = .next u → t.blk.err = u.blk.err ∧ t.blk.outLen = u.blk.outLen ∧
    ∀ k, 3 ≤ k → k < 8 → t.blk.outByte k = u.blk.outByte k

/-- GET_SESSION_KEYS_64 gives the first 8 bytes of each half of GET_SESSION_KEYS_128
(45_mschapv2_mppe.md R206). -/
def Obligations.ShortSessionKeysArePrefixes : Prop :=
  ∀ s t u : State, s.blk.pending → exec .getSessionKeys64 s = .next t → exec .getSessionKeys128 s = .next u →
    ∀ k, k < 8 → t.blk.outByte k = u.blk.outByte k ∧ t.blk.outByte (8 + k) = u.blk.outByte (16 + k)

/-- LM_HASH does not see the case of ASCII letters, nor any password byte after the fourteenth
(42_mschapv1.md R144). -/
def Obligations.LmHashIgnoresCaseAndTail : Prop :=
  ∀ s1 s2 t1 t2 : State, s1.blk.pending → s2.blk.pending → s1.blk.fatal = s2.blk.fatal →
    s1.blk.pwLen.toNat ≤ 512 → s2.blk.pwLen.toNat ≤ 512 →
    (s1.blk.pwLen = s2.blk.pwLen ∨ 14 ≤ s1.blk.pwLen.toNat ∧ 14 ≤ s2.blk.pwLen.toNat) →
    (∀ k, k < 14 → k < s1.blk.pwLen.toNat → s1.blk.bufByte .pw k = s2.blk.bufByte .pw k ∨
      (0x61 ≤ (s1.blk.bufByte .pw k).toNat ∧ (s1.blk.bufByte .pw k).toNat ≤ 0x7A ∧
        s2.blk.bufByte .pw k = s1.blk.bufByte .pw k - 0x20)) →
    exec .lmHash s1 = .next t1 → exec .lmHash s2 = .next t2 →
    (∀ k, k < 48 → t1.blk.outByte k = t2.blk.outByte k) ∧ t1.blk.outLen = t2.blk.outLen ∧
      t1.blk.errcode = t2.blk.errcode

/-- NT_HASH on the 16 bytes NT_HASH gave is NT_HASH_HASH on the password (42_mschapv1.md R145). -/
def Obligations.NtHashOfNtHashIsHashHash : Prop :=
  ∀ s1 s2 t1 t2 u : State, s1.blk.pending → s2.blk.pending → s1.blk.fatal = false → s2.blk.fatal = false →
    s1.blk.pwLen.toNat ≤ 512 → s2.blk.pwLen.toNat = 16 → exec .ntHash s1 = .next t1 →
    (∀ k, k < 16 → s2.blk.bufByte .pw k = t1.blk.outByte k) → exec .ntHash s2 = .next t2 →
    exec .ntHashHash s1 = .next u →
    ∀ k, k < 48 → t2.blk.outByte k = u.blk.outByte k

/-- Only whether SEND equals SERVER matters to GET_ASYM_START_KEY (45_mschapv2_mppe.md R205). -/
def Obligations.AsymKeySeesOnlyEquality : Prop :=
  ∀ (send server k16 : Bool) (s : State),
    exec (.getAsymStartKey send server k16) s = exec (.getAsymStartKey (!send) (!server) k16) s

/-- The outcome of a command depends on nothing but ID, the length registers, the bytes within them, and
FATAL: not on OUT, STATUS or any other byte left from before (00_scope.md R12, 40_stream_and_parity.md
R101). -/
def Obligations.CommandReadsOnlyItsOperands : Prop :=
  ∀ (i : Instr) (s1 s2 : State), s1.blk.pending → s2.blk.pending → s1.blk.fatal = s2.blk.fatal →
    s1.blk.id = s2.blk.id → (∀ buf, s1.blk.lenOf buf = s2.blk.lenOf buf) →
    (∀ buf k, k < (s1.blk.lenOf buf).toNat → k < bufCap buf → s1.blk.bufByte buf k = s2.blk.bufByte buf k) →
    ∃ t1 t2, exec i s1 = .next t1 ∧ exec i s2 = .next t2 ∧
      (∀ k, k < 48 → t1.blk.outByte k = t2.blk.outByte k) ∧ t1.blk.outLen = t2.blk.outLen ∧
      t1.blk.err = t2.blk.err ∧ t1.blk.errcode = t2.blk.errcode ∧ t1.blk.errop = t2.blk.errop ∧
      t1.blk.fatal = t2.blk.fatal

/-! ## The host's accesses -/

/-- Issue: a write of `v` to CMD while BUSY = 0 (60_exceptions.md R225). The answer `ack` and the port list
are the model's choice (logs 2, 10). -/
def Obligations.CmdWriteIssues : Prop :=
  ∀ (s : State) (v : Word) (rest : List PortEvent), s.blk.busy = false →
    s.port = .access ⟨Config.hw.base + 0x018, 32, .write v⟩ :: rest →
    ∃ t, step s = .next t ∧ t.port = rest ∧ t.reply = some .ack ∧ t.blk.cmd = v ∧ t.blk.pending ∧
      t.blk.fatal = s.blk.fatal ∧ t.blk.bwe = s.blk.bwe ∧ t.blk.id = s.blk.id ∧
      (∀ buf, t.blk.lenOf buf = s.blk.lenOf buf) ∧
      (∀ x, inOut x = false → t.blk.mem.readByte x = s.blk.mem.readByte x)

/-- While BUSY = 1: a write to any offset but CTRL changes nothing and sets BWE, a read changes nothing;
and BWE stays 1 until a STATUS write with bit 4 set while BUSY = 0, or a reset
(70_reset_and_hazards.md R257). -/
def Obligations.WritesWhileBusyAreDropped : Prop :=
  (∀ (s : State) (off : Nat) (v : Word) (rest : List PortEvent), s.blk.busy = true → off < 4096 →
    off % 4 = 0 → off ≠ 0x010 → s.port = .access ⟨Config.hw.base + off, 32, .write v⟩ :: rest →
    ∃ t, step s = .next t ∧ t.blk = { s.blk with bwe := true } ∧ t.port = rest) ∧
  (∀ (s : State) (off : Nat) (rest : List PortEvent), s.blk.busy = true → off < 4096 → off % 4 = 0 →
    s.port = .access ⟨Config.hw.base + off, 32, .read⟩ :: rest →
    ∃ t, step s = .next t ∧ t.blk = s.blk ∧ t.port = rest) ∧
  (∀ s t : State, step s = .next t → s.blk.bwe = true → t.blk.bwe = false →
    (∃ rest, s.port = .hardReset :: rest) ∨
    (∃ v rest, s.port = .access ⟨Config.hw.base + 0x010, 32, .write v⟩ :: rest ∧ v.getLsbD 0 = true) ∨
    (∃ v rest, s.port = .access ⟨Config.hw.base + 0x014, 32, .write v⟩ :: rest ∧ v.getLsbD 4 = true ∧
      s.blk.busy = false))

/-- Soft reset: a CTRL write with bit 0 set puts the whole block in its reset state, busy or not, and one
with bit 0 clear has no effect, not even on BWE (70_reset_and_hazards.md R251, 10_state.md R27). -/
def Obligations.CtrlWriteResets : Prop :=
  ∀ (s : State) (v : Word) (rest : List PortEvent),
    s.port = .access ⟨Config.hw.base + 0x010, 32, .write v⟩ :: rest →
    ∃ t, step s = .next t ∧ t.blk = (if v.getLsbD 0 = true then State.reset.blk else s.blk) ∧ t.port = rest

/-- Hard reset in any state, a command pending or not: every piece of the block's state takes its reset
value, and the pending command is gone (70_reset_and_hazards.md R250, R260). -/
def Obligations.HardResetClearsEverything : Prop :=
  ∀ (s : State) (rest : List PortEvent), s.port = .hardReset :: rest →
    ∃ t, step s = .next t ∧ t.port = rest ∧ t.blk = State.reset.blk ∧ t.blk.busy = false ∧ t.blk.cmd = 0

/-- The reset values of 10_state.md R50, and the constants the identity registers read. The model's own
fields `port` and `reply` are not spoken of (log 18). -/
def Obligations.ResetValues : Prop :=
  (∀ x, State.reset.blk.mem.readByte x = 0) ∧ State.reset.blk.id = 0 ∧
  (∀ buf, State.reset.blk.lenOf buf = 0) ∧ State.reset.blk.outLen = 0 ∧ State.reset.blk.cmd = 0 ∧
  State.reset.blk.busy = false ∧ State.reset.blk.done = false ∧ State.reset.blk.err = false ∧
  State.reset.blk.fatal = false ∧ State.reset.blk.bwe = false ∧ State.reset.blk.errcode = 0 ∧
  State.reset.blk.errop = 0 ∧ State.reset.blk.readAt Config.hw 0x000 = 0x50414843 ∧
  State.reset.blk.readAt Config.hw 0x004 = 0x00000001 ∧ State.reset.blk.readAt Config.hw 0x008 = 0x01000200 ∧
  ∃ p : BitVec 4, State.reset.blk.readAt Config.hw 0x00C = 0x00000100 ||| p.setWidth 32 <<< 16 ∧
    p.getLsbD 0 = Config.hw.avail.md4 ∧ p.getLsbD 1 = Config.hw.avail.md5 ∧
    p.getLsbD 2 = Config.hw.avail.sha1 ∧ p.getLsbD 3 = Config.hw.avail.des

/-- An access inside the window of another width than 32 bits, or at an offset not divisible by 4, is
answered with a bus error, leaves the block as it is, and is a fault of the host's step (20_memory.md
R62). -/
def Obligations.BadAccessIsBusError : Prop :=
  ∀ (s : State) (off width : Nat) (op : BusOp) (rest : List PortEvent), off < 4096 →
    (width ≠ 32 ∨ off % 4 ≠ 0) → s.port = .access ⟨Config.hw.base + off, width, op⟩ :: rest →
    s.blk.access Config.hw ⟨Config.hw.base + off, width, op⟩ = (.busError, s.blk) ∧
    step s = .fault (.busError (Config.hw.base + off) width)

/-- Address decode: an access inside BASE to BASE + 0xFFF reaches offset `a - BASE`, and one outside
has no effect on the block (20_memory.md R61). -/
def Obligations.AddressDecode : Prop :=
  (∀ a : Nat, Config.hw.base ≤ a → a ≤ Config.hw.base + 0xFFF →
    windowOffset Config.hw a = some (a - Config.hw.base)) ∧
  (∀ (s : State) (a : Access) (rest : List PortEvent),
    (a.addr < Config.hw.base ∨ Config.hw.base + 0xFFF < a.addr) → s.port = .access a :: rest →
    ∃ t, step s = .next t ∧ t.blk = s.blk ∧ t.port = rest)

/-- What a read returns, register by register, and that it changes nothing (20_memory.md R64; STATUS by
10_state.md R26, lanes by R63). That OUT and OUT_LEN read 0 while a command is pending is an inference the
spec marks as its own (R64, derived from R225 and R226). -/
def Obligations.ReadTable : Prop :=
  ∀ (s : State) (off : Nat) (rest : List PortEvent), off < 4096 → off % 4 = 0 →
    s.port = .access ⟨Config.hw.base + off, 32, .read⟩ :: rest →
    ∃ (t : State) (v : Word), step s = .next t ∧ t.blk = s.blk ∧ t.port = rest ∧ t.reply = some (.data v) ∧
      (off = 0x000 → v = 0x50414843) ∧ (off = 0x004 → v = 0x00000001) ∧ (off = 0x008 → v = 0x01000200) ∧
      (off = 0x00C → v.toNat = 0x100 + 0x10000 * Config.hw.avail.md4.toNat
        + 0x20000 * Config.hw.avail.md5.toNat + 0x40000 * Config.hw.avail.sha1.toNat
        + 0x80000 * Config.hw.avail.des.toNat) ∧
      (off = 0x010 → v = 0) ∧
      (off = 0x014 → v.toNat = s.blk.busy.toNat + 2 * s.blk.done.toNat + 4 * s.blk.err.toNat
        + 8 * s.blk.fatal.toNat + 16 * s.blk.bwe.toNat + 256 * s.blk.errcode.toNat
        + 65536 * s.blk.errop.toNat) ∧
      (off = 0x018 → v = s.blk.cmd) ∧ (off = 0x01C → v.toNat = s.blk.outLen.toNat) ∧
      (off = 0x020 → v.toNat = s.blk.id.toNat) ∧ (off = 0x024 → v.toNat = s.blk.pwLen.toNat) ∧
      (off = 0x028 → v.toNat = s.blk.chLen.toNat) ∧ (off = 0x02C → v.toNat = s.blk.userLen.toNat) ∧
      (off = 0x030 → v.toNat = s.blk.pcLen.toNat) ∧ (off = 0x034 → v.toNat = s.blk.acLen.toNat) ∧
      (off = 0x038 → v.toNat = s.blk.nrLen.toNat) ∧ (off = 0x03C → v.toNat = s.blk.kinLen.toNat) ∧
      (off = 0x040 → v.toNat = s.blk.ckLen.toNat) ∧
      ((0x100 ≤ off ∧ off < 0x138) ∨ (0x140 ≤ off ∧ off < 0x160) ∨ (0x180 ≤ off ∧ off < 0x1B0) ∨
        (0x200 ≤ off ∧ off < 0x300) ∨ (0x400 ≤ off ∧ off < 0x500) ∨ (0x800 ≤ off ∧ off < 0xA00) →
        ∀ i, i < 4 → v.extractLsb' (8 * i) 8 = s.blk.mem.readByte (off + i)) ∧
      ((0x044 ≤ off ∧ off < 0x100) ∨ (0x138 ≤ off ∧ off < 0x140) ∨ (0x160 ≤ off ∧ off < 0x180) ∨
        (0x1B0 ≤ off ∧ off < 0x200) ∨ (0x300 ≤ off ∧ off < 0x400) ∨ (0x500 ≤ off ∧ off < 0x800) ∨
        0xA00 ≤ off → v = 0) ∧
      (s.blk.pending → (0x180 ≤ off ∧ off < 0x1B0) ∨ off = 0x01C → v = 0)

/-- What a write does while BUSY = 0, register by register (20_memory.md R65; CMD and CTRL have statements
of their own): ID and the length registers take the low bits, STATUS clears BWE, a buffer word sets its
four bytes by R63, and every other offset has no effect. Whatever is not named stays as it is. The answer
`ack` is the model's choice (log 10). -/
def Obligations.WriteTable : Prop :=
  ∀ (s : State) (off : Nat) (v : Word) (rest : List PortEvent), s.blk.busy = false → off < 4096 →
    off % 4 = 0 → s.port = .access ⟨Config.hw.base + off, 32, .write v⟩ :: rest →
    ∃ t : State, step s = .next t ∧ t.port = rest ∧ t.reply = some .ack ∧
      (off = 0x014 → t.blk = { s.blk with bwe := if v.getLsbD 4 = true then false else s.blk.bwe }) ∧
      (off = 0x020 → t.blk = { s.blk with id := v.extractLsb' 0 8 }) ∧
      (off = 0x024 → t.blk = { s.blk with pwLen := v.extractLsb' 0 16 }) ∧
      (off = 0x028 → t.blk = { s.blk with chLen := v.extractLsb' 0 16 }) ∧
      (off = 0x02C → t.blk = { s.blk with userLen := v.extractLsb' 0 16 }) ∧
      (off = 0x030 → t.blk = { s.blk with pcLen := v.extractLsb' 0 16 }) ∧
      (off = 0x034 → t.blk = { s.blk with acLen := v.extractLsb' 0 16 }) ∧
      (off = 0x038 → t.blk = { s.blk with nrLen := v.extractLsb' 0 16 }) ∧
      (off = 0x03C → t.blk = { s.blk with kinLen := v.extractLsb' 0 16 }) ∧
      (off = 0x040 → t.blk = { s.blk with ckLen := v.extractLsb' 0 16 }) ∧
      ((0x100 ≤ off ∧ off < 0x138) ∨ (0x140 ≤ off ∧ off < 0x160) ∨ (0x200 ≤ off ∧ off < 0x300) ∨
        (0x400 ≤ off ∧ off < 0x500) ∨ (0x800 ≤ off ∧ off < 0xA00) →
        t.blk = { s.blk with mem := t.blk.mem } ∧
        (∀ i, i < 4 → t.blk.mem.readByte (off + i) = v.extractLsb' (8 * i) 8) ∧
        (∀ x, x < off ∨ off + 4 ≤ x → t.blk.mem.readByte x = s.blk.mem.readByte x)) ∧
      (off < 0x010 ∨ off = 0x01C ∨ (0x044 ≤ off ∧ off < 0x100) ∨ (0x138 ≤ off ∧ off < 0x140) ∨
        (0x160 ≤ off ∧ off < 0x200) ∨ (0x300 ≤ off ∧ off < 0x400) ∨ (0x500 ≤ off ∧ off < 0x800) ∨
        0xA00 ≤ off → t.blk = s.blk)

/-- A read right after a write of the same buffer word returns the word written (20_memory.md R63, R70). -/
def Obligations.ReadReturnsLastWrite : Prop :=
  ∀ (s : State) (buf : Buf) (j : Nat) (v : Word) (rest : List PortEvent), s.blk.busy = false →
    4 * j < bufCap buf →
    s.port = .access ⟨Config.hw.base + (bufOffset buf + 4 * j), 32, .write v⟩ ::
      .access ⟨Config.hw.base + (bufOffset buf + 4 * j), 32, .read⟩ :: rest →
    ∃ t, core.run 2 s = .next t ∧ t.reply = some (.data v) ∧ t.port = rest

/-- A finished command's record and result stay until the next issue or reset: no other step changes OUT,
OUT_LEN, DONE, ERR, ERRCODE or ERROP (20_memory.md R71, 60_exceptions.md R231). -/
def Obligations.FinishedRecordStays : Prop :=
  ∀ s t : State, s.blk.busy = false → step s = .next t → (∀ rest, s.port ≠ .hardReset :: rest) →
    (∀ v rest, s.port ≠ .access ⟨Config.hw.base + 0x018, 32, .write v⟩ :: rest) →
    (∀ v rest, s.port = .access ⟨Config.hw.base + 0x010, 32, .write v⟩ :: rest → v.getLsbD 0 = false) →
    (∀ k, k < 48 → t.blk.outByte k = s.blk.outByte k) ∧ t.blk.outLen = s.blk.outLen ∧
      t.blk.done = s.blk.done ∧ t.blk.err = s.blk.err ∧ t.blk.errcode = s.blk.errcode ∧
      t.blk.errop = s.blk.errop ∧ t.blk.busy = false

/-! ## Invariants -/

/-- The reset state meets the invariant (the memory's canonical form in it is the model's choice, log 9). -/
def Obligations.InvariantAtReset : Prop := State.reset.Inv

/-- Every step from a state that meets the invariant gives a state that meets it: the memory stays
canonical and within the buffers, BUSY = 1 implies a clear record, ERR = 1 exactly when ERRCODE is not 0,
the codes and ids stay in their ranges, OUT_LEN is one of 0, 8, 16, 24, 32, 42, and OUT is 0 past it
(10_state.md R26, R29, R34; 60_exceptions.md R221; the canonical form is the model's choice, log 9). -/
def Obligations.StepKeepsInvariant : Prop :=
  ∀ s t : State, s.Inv → step s = .next t → t.Inv

/-- FATAL = 1 only where PRIM_AVAIL lacks a primitive: it holds at reset and every step keeps it
(60_exceptions.md R224). -/
def Obligations.FatalOnlyIfPrimitiveMissing : Prop :=
  (State.reset.blk.fatal = true → ∃ p, Config.hw.avail.has p = false) ∧
  ∀ s t : State, (s.blk.fatal = true → ∃ p, Config.hw.avail.has p = false) → step s = .next t →
    (t.blk.fatal = true → ∃ p, Config.hw.avail.has p = false)

/-- Canonical memories that read alike everywhere are the same list, so a comparison of states compares
what they hold (log 9). -/
def Obligations.MemoryIsItsReads : Prop :=
  ∀ m m' : Memory, m.wf → m'.wf → (∀ x, m.readByte x = m'.readByte x) → m = m'

/-! ## Runs -/

/-- A port list with no bus-error access never makes a step fault, and stays such a list (the port list
is the model's choice, log 2; the fault is R62's, log 6). -/
def Obligations.CleanPortNeverFaults : Prop :=
  ∀ s : State, portClean Config.hw s.port → ∃ t, step s = .next t ∧ portClean Config.hw t.port

/-- Whatever host accesses come between an issue and the sequencer's turn, except a soft reset, the
command ends as it would have ended at once; only BWE can differ (70_reset_and_hazards.md R259, R257; the
port list that carries the schedule is the model's choice, log 2). -/
def Obligations.LatencyDoesNotChangeTheOutcome : Prop :=
  ∀ (s : State) (i : Instr) (accesses : List Access) (rest : List PortEvent), s.blk.busy = true →
    decode s.blk.cmd = .ok i → s.port = accesses.map .access ++ .sequencer :: rest →
    (∀ a ∈ accesses, a.clean Config.hw) →
    (∀ a ∈ accesses, ∀ v, a.op = .write v → windowOffset Config.hw a.addr = some 0x010 → v.getLsbD 0 = false) →
    ∃ t u, core.run (accesses.length + 1) s = .next t ∧ exec i s = .next u ∧
      t.blk = { u.blk with bwe := t.blk.bwe } ∧ t.blk.busy = false ∧ t.port = rest

/-- WAIT: after any number of polls the loop ends with a STATUS read whose bit 0 is 0 and bit 1 is 1
(30_encoding.md R88, 70_reset_and_hazards.md R256). The number of polls is the schedule's, the model's
choice (log 16). -/
def Obligations.WaitEndsWithDone : Prop :=
  ∀ (s : State) (polls : Nat), s.blk.busy = true → s.port = waitEvents Config.hw polls →
    ∃ (t : State) (v : Word), core.run (polls + 2) s = .next t ∧ t.reply = some (.data v) ∧
      v.getLsbD 0 = false ∧ v.getLsbD 1 = true ∧ t.port = []

/-- LOADB: after the lines of a LOADB of up to CAP bytes on an idle block, the buffer starts with those
bytes, its length register holds their number, the block is idle, and every other buffer and length
register is as before (30_encoding.md R88, 20_memory.md R63). -/
def Obligations.LoadbLoadsTheOperand : Prop :=
  ∀ (s : State) (buf : Buf) (b : Bytes) (rest : List PortEvent), s.blk.busy = false → b.length ≤ bufCap buf →
    s.port = portLines Config.hw (loadb buf b) ++ rest →
    ∃ t, core.run (loadb buf b).length s = .next t ∧ t.port = rest ∧ t.blk.busy = false ∧
      t.blk.bytes buf b.length = b ∧ (t.blk.lenOf buf).toNat = b.length ∧
      (∀ other, other ≠ buf → t.blk.lenOf other = s.blk.lenOf other ∧
        ∀ k, k < bufCap other → t.blk.bufByte other k = s.blk.bufByte other k)

/-- A command issued straight after reset ends with LENGTH of its first operand with a mandated length;
where every operand is of variable length it runs on empty inputs, and succeeds if its primitives are
available (70_reset_and_hazards.md R253; GET_KEY_40 and GET_KEY_56 with CKP = 0 fall under its criterion
though its parenthesis does not name them, log 22; `withFetchWord` is log 8). -/
def Obligations.FirstCommandAfterReset : Prop :=
  ∀ i : Instr, ∃ t, step (State.reset.withFetchWord 32 (encode i).toNat) = .next t ∧
    match (operandRow i).find? (fun o => decide (0 < o.2)) with
    | some o => t.blk.err = true ∧ t.blk.errcode = 2 ∧ t.blk.errop = operandId o.1 ∧ t.blk.outLen = 0
    | none =>
      if (primRow i).all Config.hw.avail.has = true then
        t.blk.err = false ∧ t.blk.errcode = 0 ∧ t.blk.outLen.toNat = resultBytes i
      else t.blk.err = true ∧ t.blk.errcode = 3 ∧ t.blk.fatal = true ∧ t.blk.outLen = 0

/-- The words no command has: whatever host accesses come between an issue and the sequencer's turn,
except a soft reset, such a word ends with ILLEGAL, or with FATAL where FATAL = 1, and the block is
otherwise as it was but for BWE (30_encoding.md R82, R83; 60_exceptions.md R223, R228; 70_reset_and_hazards.md
R257, R259; the port list that carries the schedule is the model's choice, log 2). -/
def Obligations.LatencyDoesNotSaveAnUnlistedWord : Prop :=
  ∀ (s : State) (accesses : List Access) (rest : List PortEvent), s.blk.busy = true →
    (∀ i, encode i ≠ s.blk.cmd) → s.port = accesses.map .access ++ .sequencer :: rest →
    (∀ a ∈ accesses, a.clean Config.hw) →
    (∀ a ∈ accesses, ∀ v, a.op = .write v → windowOffset Config.hw a.addr = some 0x010 → v.getLsbD 0 = false) →
    ∃ t, core.run (accesses.length + 1) s = .next t ∧ t.port = rest ∧
      t.blk = { s.blk with busy := false, done := true, err := true, bwe := t.blk.bwe,
                           errcode := if s.blk.fatal = true then 4 else 1, errop := 0 }
end

