-- ==== Sys2Proof/Laws/Memory.lean ====
section
/-! SUPPORT. The laws of the window's data bytes: a read after a write, and the canonical form. -/

namespace Sys2Proof.Machine

/-! ## One byte -/

theorem readByte_filter (m : Memory) (a x : Nat) :
    Memory.readByte (m.filter fun c => c.1 ≠ a) x = if x = a then unlistedByte else m.readByte x := by
  induction m with
  | nil => simp [Memory.readByte]
  | cons c m ih =>
    obtain ⟨k, v⟩ := c
    by_cases hk : k = a
    · subst hk
      by_cases hx : x = k
      · simp [List.filter, hx] at *
        simpa [hx] using ih
      · have : ¬ k = x := fun h => hx h.symm
        simp [List.filter, Memory.readByte, hx, this] at *
        simpa [hx] using ih
    · by_cases hx : k = x
      · subst hx; simp [List.filter, Memory.readByte, hk]
      · simp [List.filter, Memory.readByte, hk, hx] at *
        simpa using ih

theorem readByte_insertCell (m : Memory) (a x : Nat) (v : Byte) (h : ∀ c ∈ m, c.1 ≠ a) :
    (Memory.insertCell m a v).readByte x = if x = a then v else m.readByte x := by
  induction m with
  | nil => by_cases hx : a = x <;> simp [Memory.insertCell, Memory.readByte, hx, eq_comm]
  | cons c m ih =>
    obtain ⟨k, w⟩ := c
    have hk : k ≠ a := h (k, w) (by simp)
    have ih := ih fun c hc => h c (by simp [hc])
    unfold Memory.insertCell
    split
    · by_cases hx : a = x
      · simp [Memory.readByte, hx]
      · have hx' : ¬ x = a := fun e => hx e.symm
        simp [Memory.readByte, hx, hx']
    · by_cases hx : k = x
      · subst hx; simp [Memory.readByte, hk]
      · simp [Memory.readByte, hx, ih]

/-- A read after a write of one byte: the byte written, and every other byte as before. -/
theorem readByte_writeByte (m : Memory) (a x : Nat) (v : Byte) :
    (m.writeByte a v).readByte x = if x = a then v else m.readByte x := by
  unfold Memory.writeByte
  dsimp only
  split
  · next hv => rw [readByte_filter, hv]
  · rw [readByte_insertCell _ _ _ _ (by simp), readByte_filter]
    split <;> rfl

theorem insertCell_mem (m : Memory) (a : Nat) (v : Byte) (c : Host.Cell) :
    c ∈ Memory.insertCell m a v ↔ c = (a, v) ∨ c ∈ m := by
  induction m with
  | nil => simp [Memory.insertCell]
  | cons d m ih =>
    unfold Memory.insertCell
    split
    · simp
    · simp only [List.mem_cons, ih]; tauto

theorem insertCell_sorted (m : Memory) (a : Nat) (v : Byte)
    (hs : List.Pairwise (fun x y : Host.Cell => x.1 < y.1) m) (h : ∀ c ∈ m, c.1 ≠ a) :
    List.Pairwise (fun x y : Host.Cell => x.1 < y.1) (Memory.insertCell m a v) := by
  induction m with
  | nil => simp [Memory.insertCell]
  | cons c m ih =>
    obtain ⟨k, w⟩ := c
    obtain ⟨hk, hm⟩ := List.pairwise_cons.1 hs
    have hka : k ≠ a := h (k, w) (by simp)
    unfold Memory.insertCell
    split
    · next hlt =>
      refine List.pairwise_cons.2 ⟨fun c hc => ?_, hs⟩
      rcases List.mem_cons.1 hc with rfl | hc
      · exact hlt
      · exact hlt.trans (hk c hc)
    · next hge =>
      refine List.pairwise_cons.2 ⟨fun c hc => ?_, ih hm fun c hc => h c (by simp [hc])⟩
      rcases (insertCell_mem m a v c).1 hc with rfl | hc
      · exact lt_of_le_of_ne (not_lt.1 hge) hka
      · exact hk c hc

/-- A write keeps the canonical form. -/
theorem writeByte_wf (m : Memory) (a : Nat) (v : Byte) (h : m.wf) : (m.writeByte a v).wf := by
  obtain ⟨hs, hz⟩ := h
  have hf : List.Pairwise (fun x y : Host.Cell => x.1 < y.1) (m.filter fun c => c.1 ≠ a) :=
    hs.filter _
  have hfz : ∀ c ∈ m.filter (fun c => c.1 ≠ a), c.2 ≠ unlistedByte := fun c hc =>
    hz c (List.mem_of_mem_filter hc)
  unfold Memory.writeByte
  dsimp only
  split
  · exact ⟨hf, hfz⟩
  · next hv =>
    refine ⟨insertCell_sorted _ _ _ hf (by simp), fun c hc => ?_⟩
    rcases (insertCell_mem _ _ _ _).1 hc with rfl | hc
    · exact hv
    · exact hfz c hc

/-- The offsets a written memory lists: the one written, or one listed before. -/
theorem writeByte_mem (m : Memory) (a : Nat) (v : Byte) (c : Host.Cell)
    (hc : c ∈ m.writeByte a v) : c.1 = a ∨ c ∈ m := by
  unfold Memory.writeByte at hc
  dsimp only at hc
  split at hc
  · exact .inr (List.mem_of_mem_filter hc)
  · rcases (insertCell_mem _ _ _ _).1 hc with rfl | hc
    · exact .inl rfl
    · exact .inr (List.mem_of_mem_filter hc)

/-- Where a canonical memory lists a byte, it reads as that byte. -/
theorem readByte_of_mem (m : Memory) (h : m.wf) (c : Host.Cell) (hc : c ∈ m) :
    m.readByte c.1 = c.2 := by
  obtain ⟨hs, -⟩ := h
  induction m with
  | nil => simp at hc
  | cons d m ih =>
    obtain ⟨hk, hm⟩ := List.pairwise_cons.1 hs
    rcases List.mem_cons.1 hc with rfl | hc
    · simp [Memory.readByte]
    · have := hk c hc
      simp [Memory.readByte, (ne_of_lt this), ih hc hm]

theorem readByte_of_not_mem (m : Memory) (a : Nat) (h : ∀ c ∈ m, c.1 ≠ a) :
    m.readByte a = unlistedByte := by
  induction m with
  | nil => rfl
  | cons c m ih =>
    simp [Memory.readByte, h c (by simp), ih fun c hc => h c (by simp [hc])]

/-! ## Byte strings -/

/-- A read after a store of a byte string. -/
theorem readByte_store (m : Memory) (a x : Nat) (b : Bytes) :
    (m.store a b).readByte x = if h : a ≤ x ∧ x - a < b.length then b[x - a]'h.2 else m.readByte x := by
  induction b generalizing m a with
  | nil => simp [Memory.store]
  | cons v b ih =>
    simp only [Memory.store, ih, readByte_writeByte]
    by_cases hx : x = a
    · subst hx; simp
    · by_cases h1 : a ≤ x ∧ x - a < (v :: b).length
      · have h2 : a + 1 ≤ x ∧ x - (a + 1) < b.length := by simp at h1; omega
        have e : x - a = x - (a + 1) + 1 := by omega
        rw [dif_pos h2, dif_pos h1]
        simp only [e, List.getElem_cons_succ]
      · have h2 : ¬ (a + 1 ≤ x ∧ x - (a + 1) < b.length) := by simp at h1; omega
        simp only [dif_neg h1, dif_neg h2, if_neg hx]

/-- A store leaves every byte outside the stored range alone. -/
theorem readByte_store_outside (m : Memory) (a x : Nat) (b : Bytes) (h : x < a ∨ a + b.length ≤ x) :
    (m.store a b).readByte x = m.readByte x := by
  rw [readByte_store, dif_neg (by omega)]

/-- A store puts byte `k` of the string at `a + k`. -/
theorem readByte_store_inside (m : Memory) (a k : Nat) (b : Bytes) (h : k < b.length) :
    (m.store a b).readByte (a + k) = b[k] := by
  rw [readByte_store, dif_pos ⟨by omega, by omega⟩]
  simp

theorem store_wf (m : Memory) (a : Nat) (b : Bytes) (h : m.wf) : (m.store a b).wf := by
  induction b generalizing m a with
  | nil => exact h
  | cons v b ih => exact ih _ _ (writeByte_wf m a v h)

theorem store_mem (m : Memory) (a : Nat) (b : Bytes) (c : Host.Cell) (hc : c ∈ m.store a b) :
    (a ≤ c.1 ∧ c.1 < a + b.length) ∨ c ∈ m := by
  induction b generalizing m a with
  | nil => exact .inr hc
  | cons v b ih =>
    rcases ih _ _ hc with h | h
    · left; simp; omega
    · rcases writeByte_mem m a v c h with h | h
      · left; simp; omega
      · exact .inr h

/-- A read after a clear. -/
theorem readByte_clear (m : Memory) (a n x : Nat) :
    (m.clear a n).readByte x = if a ≤ x ∧ x < a + n then unlistedByte else m.readByte x := by
  unfold Memory.clear
  induction m with
  | nil => simp [Memory.readByte]
  | cons c m ih =>
    obtain ⟨k, v⟩ := c
    by_cases hk : a ≤ k ∧ k < a + n
    · rw [List.filter_cons_of_neg (by simpa using hk), ih]
      by_cases hx : a ≤ x ∧ x < a + n
      · simp [hx]
      · have : ¬ k = x := fun e => hx (e ▸ hk)
        simp [hx, Memory.readByte, this]
    · rw [List.filter_cons_of_pos (by simp; omega)]
      by_cases hx : k = x
      · subst hx; simp [Memory.readByte, hk]
      · simp only [Memory.readByte, if_neg hx, ih]

theorem clear_wf (m : Memory) (a n : Nat) (h : m.wf) : (m.clear a n).wf :=
  ⟨h.1.filter _, fun c hc => h.2 c (List.mem_of_mem_filter hc)⟩

theorem clear_mem (m : Memory) (a n : Nat) (c : Host.Cell) (hc : c ∈ m.clear a n) : c ∈ m :=
  List.mem_of_mem_filter hc

@[simp] theorem load_toList (m : Memory) (a n : Nat) :
    (m.load a n).toList = (List.range n).map fun k => m.readByte (a + k) := rfl

/-- Two memories that agree on the bytes loaded give the same load. -/
theorem load_congr (m m' : Memory) (a n : Nat)
    (h : ∀ k, k < n → m.readByte (a + k) = m'.readByte (a + k)) : m.load a n = m'.load a n := by
  apply Subtype.ext
  exact List.map_congr_left fun k hk => h k (List.mem_range.1 hk)

/-! ## Words -/

theorem writeWord_wf (m : Memory) (a : Nat) (v : Word) (h : m.wf) : (m.writeWord a v).wf :=
  store_wf m a _ h

/-- Byte `i` of a written word is its lane `i`. -/
theorem readByte_writeWord_lane (m : Memory) (a i : Nat) (v : Word) (h : i < 4) :
    (m.writeWord a v).readByte (a + i) = lane v i := by
  unfold Memory.writeWord
  rw [readByte_store_inside _ _ _ _ (by simpa using h)]
  obtain rfl | rfl | rfl | rfl : i = 0 ∨ i = 1 ∨ i = 2 ∨ i = 3 := by omega
  all_goals rfl

theorem readByte_writeWord_outside (m : Memory) (a x : Nat) (v : Word) (h : x < a ∨ a + 4 ≤ x) :
    (m.writeWord a v).readByte x = m.readByte x :=
  readByte_store_outside m a x _ (by simpa using h)

theorem wordOfLanes_lanes (v : Word) : wordOfLanes (lane v 0) (lane v 1) (lane v 2) (lane v 3) = v := by
  apply BitVec.eq_of_getLsbD_eq
  intro i hi
  simp only [wordOfLanes, lane, BitVec.getLsbD_append, BitVec.getLsbD_extractLsb']
  by_cases h1 : i < 8
  · simp [h1]
  · by_cases h2 : i < 16
    · have : i - 8 < 8 := by omega
      simp [h1, this, show 8 + (i - 8) = i by omega]
    · by_cases h3 : i < 24
      · have a : ¬ i - 8 < 8 := by omega
        have b : i - 8 - 8 < 8 := by omega
        simp [h1, a, b, show 16 + (i - 8 - 8) = i by omega]
      · have a : ¬ i - 8 < 8 := by omega
        have b : ¬ i - 8 - 8 < 8 := by omega
        have c : i - 8 - 8 - 8 < 8 := by omega
        simp [h1, a, b, c, show 24 + (i - 8 - 8 - 8) = i by omega]

/-- A word read back where it was written. -/
theorem readWord_writeWord (m : Memory) (a : Nat) (v : Word) : (m.writeWord a v).readWord a = v := by
  have h := fun i hi => readByte_writeWord_lane m a i v hi
  unfold Memory.readWord
  rw [h 1 (by omega), h 2 (by omega), h 3 (by omega), show (m.writeWord a v).readByte a = lane v 0 from h 0 (by omega)]
  exact wordOfLanes_lanes v

/-- A word read elsewhere is as before. -/
theorem readWord_writeWord_other (m : Memory) (a x : Nat) (v : Word) (h : x + 4 ≤ a ∨ a + 4 ≤ x) :
    (m.writeWord a v).readWord x = m.readWord x := by
  unfold Memory.readWord
  rw [readByte_writeWord_outside _ _ _ _ (by omega), readByte_writeWord_outside _ _ _ _ (by omega),
    readByte_writeWord_outside _ _ _ _ (by omega), readByte_writeWord_outside _ _ _ _ (by omega)]

/-- Lane `i` of a word read is the byte at its place (20_memory.md R63). -/
theorem readWord_lane (m : Memory) (a i : Nat) (h : i < 4) :
    (m.readWord a).extractLsb' (8 * i) 8 = m.readByte (a + i) := by
  unfold Memory.readWord wordOfLanes
  apply BitVec.eq_of_getLsbD_eq
  intro k hk
  obtain rfl | rfl | rfl | rfl : i = 0 ∨ i = 1 ∨ i = 2 ∨ i = 3 := by omega
  all_goals simp only [BitVec.getLsbD_extractLsb', hk, BitVec.getLsbD_append, decide_true, Bool.true_and]
  · rw [if_pos (by omega)]; simp
  · rw [if_neg (by omega), if_pos (by omega)]; simp
  · rw [if_neg (by omega), if_neg (by omega), if_pos (by omega)]; congr 1; omega
  · rw [if_neg (by omega), if_neg (by omega), if_neg (by omega)]; congr 1; omega

end Sys2Proof.Machine
end

