-- ==== Sys2Proof/Laws/State.lean ====
section
/-! SUPPORT. One lemma per field per update of the state, true by `rfl`, so that no later proof unfolds
a record update. -/

namespace Sys2Proof.Machine

/-! ## The machine -/

@[simp] theorem complete_blk (s : State) (r : Except CmdError Bytes) : (s.complete r).blk = s.blk.finish r := rfl
@[simp] theorem complete_port (s : State) (r : Except CmdError Bytes) : (s.complete r).port = s.port := rfl
@[simp] theorem complete_reply (s : State) (r : Except CmdError Bytes) : (s.complete r).reply = s.reply := rfl
@[simp] theorem reset_blk : State.reset.blk = Block.reset := rfl
@[simp] theorem reset_port : State.reset.port = [] := rfl
@[simp] theorem reset_reply : State.reset.reply = none := rfl
@[simp] theorem resetNow_eq (b : Block) : b.resetNow = Block.reset := rfl

/-! ## issue -/

@[simp] theorem issue_mem (b : Block) (v : Word) : (b.issue v).mem = b.mem.clear outOffset outCap := rfl
@[simp] theorem issue_id (b : Block) (v : Word) : (b.issue v).id = b.id := rfl
@[simp] theorem issue_pwLen (b : Block) (v : Word) : (b.issue v).pwLen = b.pwLen := rfl
@[simp] theorem issue_chLen (b : Block) (v : Word) : (b.issue v).chLen = b.chLen := rfl
@[simp] theorem issue_userLen (b : Block) (v : Word) : (b.issue v).userLen = b.userLen := rfl
@[simp] theorem issue_pcLen (b : Block) (v : Word) : (b.issue v).pcLen = b.pcLen := rfl
@[simp] theorem issue_acLen (b : Block) (v : Word) : (b.issue v).acLen = b.acLen := rfl
@[simp] theorem issue_nrLen (b : Block) (v : Word) : (b.issue v).nrLen = b.nrLen := rfl
@[simp] theorem issue_kinLen (b : Block) (v : Word) : (b.issue v).kinLen = b.kinLen := rfl
@[simp] theorem issue_ckLen (b : Block) (v : Word) : (b.issue v).ckLen = b.ckLen := rfl
@[simp] theorem issue_outLen (b : Block) (v : Word) : (b.issue v).outLen = 0 := rfl
@[simp] theorem issue_cmd (b : Block) (v : Word) : (b.issue v).cmd = v := rfl
@[simp] theorem issue_busy (b : Block) (v : Word) : (b.issue v).busy = true := rfl
@[simp] theorem issue_done (b : Block) (v : Word) : (b.issue v).done = false := rfl
@[simp] theorem issue_err (b : Block) (v : Word) : (b.issue v).err = false := rfl
@[simp] theorem issue_fatal (b : Block) (v : Word) : (b.issue v).fatal = b.fatal := rfl
@[simp] theorem issue_bwe (b : Block) (v : Word) : (b.issue v).bwe = b.bwe := rfl
@[simp] theorem issue_errcode (b : Block) (v : Word) : (b.issue v).errcode = 0 := rfl
@[simp] theorem issue_errop (b : Block) (v : Word) : (b.issue v).errop = 0 := rfl

/-! ## completeOk -/

@[simp] theorem completeOk_mem (b : Block) (r : Bytes) : (b.completeOk r).mem = b.mem.store outOffset r := rfl
@[simp] theorem completeOk_id (b : Block) (r : Bytes) : (b.completeOk r).id = b.id := rfl
@[simp] theorem completeOk_pwLen (b : Block) (r : Bytes) : (b.completeOk r).pwLen = b.pwLen := rfl
@[simp] theorem completeOk_chLen (b : Block) (r : Bytes) : (b.completeOk r).chLen = b.chLen := rfl
@[simp] theorem completeOk_userLen (b : Block) (r : Bytes) : (b.completeOk r).userLen = b.userLen := rfl
@[simp] theorem completeOk_pcLen (b : Block) (r : Bytes) : (b.completeOk r).pcLen = b.pcLen := rfl
@[simp] theorem completeOk_acLen (b : Block) (r : Bytes) : (b.completeOk r).acLen = b.acLen := rfl
@[simp] theorem completeOk_nrLen (b : Block) (r : Bytes) : (b.completeOk r).nrLen = b.nrLen := rfl
@[simp] theorem completeOk_kinLen (b : Block) (r : Bytes) : (b.completeOk r).kinLen = b.kinLen := rfl
@[simp] theorem completeOk_ckLen (b : Block) (r : Bytes) : (b.completeOk r).ckLen = b.ckLen := rfl
@[simp] theorem completeOk_outLen (b : Block) (r : Bytes) : (b.completeOk r).outLen = BitVec.ofNat 6 r.length := rfl
@[simp] theorem completeOk_cmd (b : Block) (r : Bytes) : (b.completeOk r).cmd = b.cmd := rfl
@[simp] theorem completeOk_busy (b : Block) (r : Bytes) : (b.completeOk r).busy = false := rfl
@[simp] theorem completeOk_done (b : Block) (r : Bytes) : (b.completeOk r).done = true := rfl
@[simp] theorem completeOk_err (b : Block) (r : Bytes) : (b.completeOk r).err = b.err := rfl
@[simp] theorem completeOk_fatal (b : Block) (r : Bytes) : (b.completeOk r).fatal = b.fatal := rfl
@[simp] theorem completeOk_bwe (b : Block) (r : Bytes) : (b.completeOk r).bwe = b.bwe := rfl
@[simp] theorem completeOk_errcode (b : Block) (r : Bytes) : (b.completeOk r).errcode = b.errcode := rfl
@[simp] theorem completeOk_errop (b : Block) (r : Bytes) : (b.completeOk r).errop = b.errop := rfl

/-! ## completeError -/

@[simp] theorem completeError_mem (b : Block) (e : CmdError) : (b.completeError e).mem = b.mem := rfl
@[simp] theorem completeError_id (b : Block) (e : CmdError) : (b.completeError e).id = b.id := rfl
@[simp] theorem completeError_pwLen (b : Block) (e : CmdError) : (b.completeError e).pwLen = b.pwLen := rfl
@[simp] theorem completeError_chLen (b : Block) (e : CmdError) : (b.completeError e).chLen = b.chLen := rfl
@[simp] theorem completeError_userLen (b : Block) (e : CmdError) : (b.completeError e).userLen = b.userLen := rfl
@[simp] theorem completeError_pcLen (b : Block) (e : CmdError) : (b.completeError e).pcLen = b.pcLen := rfl
@[simp] theorem completeError_acLen (b : Block) (e : CmdError) : (b.completeError e).acLen = b.acLen := rfl
@[simp] theorem completeError_nrLen (b : Block) (e : CmdError) : (b.completeError e).nrLen = b.nrLen := rfl
@[simp] theorem completeError_kinLen (b : Block) (e : CmdError) : (b.completeError e).kinLen = b.kinLen := rfl
@[simp] theorem completeError_ckLen (b : Block) (e : CmdError) : (b.completeError e).ckLen = b.ckLen := rfl
@[simp] theorem completeError_outLen (b : Block) (e : CmdError) : (b.completeError e).outLen = b.outLen := rfl
@[simp] theorem completeError_cmd (b : Block) (e : CmdError) : (b.completeError e).cmd = b.cmd := rfl
@[simp] theorem completeError_busy (b : Block) (e : CmdError) : (b.completeError e).busy = false := rfl
@[simp] theorem completeError_done (b : Block) (e : CmdError) : (b.completeError e).done = true := rfl
@[simp] theorem completeError_err (b : Block) (e : CmdError) : (b.completeError e).err = true := rfl
@[simp] theorem completeError_fatal (b : Block) (e : CmdError) : (b.completeError e).fatal = (b.fatal || e.setsFatal) := rfl
@[simp] theorem completeError_bwe (b : Block) (e : CmdError) : (b.completeError e).bwe = b.bwe := rfl
@[simp] theorem completeError_errcode (b : Block) (e : CmdError) : (b.completeError e).errcode = e.code := rfl
@[simp] theorem completeError_errop (b : Block) (e : CmdError) : (b.completeError e).errop = e.info := rfl

/-! ## Length registers -/

@[simp] theorem setLen_mem (b : Block) (buf : Buf) (v : BitVec 16) : (b.setLen buf v).mem = b.mem := by
  cases buf <;> rfl
@[simp] theorem setLen_id (b : Block) (buf : Buf) (v : BitVec 16) : (b.setLen buf v).id = b.id := by
  cases buf <;> rfl
@[simp] theorem setLen_outLen (b : Block) (buf : Buf) (v : BitVec 16) : (b.setLen buf v).outLen = b.outLen := by
  cases buf <;> rfl
@[simp] theorem setLen_cmd (b : Block) (buf : Buf) (v : BitVec 16) : (b.setLen buf v).cmd = b.cmd := by
  cases buf <;> rfl
@[simp] theorem setLen_busy (b : Block) (buf : Buf) (v : BitVec 16) : (b.setLen buf v).busy = b.busy := by
  cases buf <;> rfl
@[simp] theorem setLen_done (b : Block) (buf : Buf) (v : BitVec 16) : (b.setLen buf v).done = b.done := by
  cases buf <;> rfl
@[simp] theorem setLen_err (b : Block) (buf : Buf) (v : BitVec 16) : (b.setLen buf v).err = b.err := by
  cases buf <;> rfl
@[simp] theorem setLen_fatal (b : Block) (buf : Buf) (v : BitVec 16) : (b.setLen buf v).fatal = b.fatal := by
  cases buf <;> rfl
@[simp] theorem setLen_bwe (b : Block) (buf : Buf) (v : BitVec 16) : (b.setLen buf v).bwe = b.bwe := by
  cases buf <;> rfl
@[simp] theorem setLen_errcode (b : Block) (buf : Buf) (v : BitVec 16) : (b.setLen buf v).errcode = b.errcode := by
  cases buf <;> rfl
@[simp] theorem setLen_errop (b : Block) (buf : Buf) (v : BitVec 16) : (b.setLen buf v).errop = b.errop := by
  cases buf <;> rfl
@[simp] theorem setLen_lenOf (b : Block) (buf buf' : Buf) (v : BitVec 16) :
    (b.setLen buf v).lenOf buf' = if buf' = buf then v else b.lenOf buf' := by
  cases buf <;> cases buf' <;> rfl

@[simp] theorem issue_lenOf (b : Block) (v : Word) (buf : Buf) : (b.issue v).lenOf buf = b.lenOf buf := by
  cases buf <;> rfl
@[simp] theorem completeOk_lenOf (b : Block) (r : Bytes) (buf : Buf) : (b.completeOk r).lenOf buf = b.lenOf buf := by
  cases buf <;> rfl
@[simp] theorem completeError_lenOf (b : Block) (e : CmdError) (buf : Buf) :
    (b.completeError e).lenOf buf = b.lenOf buf := by
  cases buf <;> rfl

/-! ## STATUS writes -/

@[simp] theorem writeStatus_mem (b : Block) (v : Word) : (b.writeStatus v).mem = b.mem := by
  unfold Block.writeStatus; split <;> rfl
@[simp] theorem writeStatus_id (b : Block) (v : Word) : (b.writeStatus v).id = b.id := by
  unfold Block.writeStatus; split <;> rfl
@[simp] theorem writeStatus_pwLen (b : Block) (v : Word) : (b.writeStatus v).pwLen = b.pwLen := by
  unfold Block.writeStatus; split <;> rfl
@[simp] theorem writeStatus_chLen (b : Block) (v : Word) : (b.writeStatus v).chLen = b.chLen := by
  unfold Block.writeStatus; split <;> rfl
@[simp] theorem writeStatus_userLen (b : Block) (v : Word) : (b.writeStatus v).userLen = b.userLen := by
  unfold Block.writeStatus; split <;> rfl
@[simp] theorem writeStatus_pcLen (b : Block) (v : Word) : (b.writeStatus v).pcLen = b.pcLen := by
  unfold Block.writeStatus; split <;> rfl
@[simp] theorem writeStatus_acLen (b : Block) (v : Word) : (b.writeStatus v).acLen = b.acLen := by
  unfold Block.writeStatus; split <;> rfl
@[simp] theorem writeStatus_nrLen (b : Block) (v : Word) : (b.writeStatus v).nrLen = b.nrLen := by
  unfold Block.writeStatus; split <;> rfl
@[simp] theorem writeStatus_kinLen (b : Block) (v : Word) : (b.writeStatus v).kinLen = b.kinLen := by
  unfold Block.writeStatus; split <;> rfl
@[simp] theorem writeStatus_ckLen (b : Block) (v : Word) : (b.writeStatus v).ckLen = b.ckLen := by
  unfold Block.writeStatus; split <;> rfl
@[simp] theorem writeStatus_outLen (b : Block) (v : Word) : (b.writeStatus v).outLen = b.outLen := by
  unfold Block.writeStatus; split <;> rfl
@[simp] theorem writeStatus_cmd (b : Block) (v : Word) : (b.writeStatus v).cmd = b.cmd := by
  unfold Block.writeStatus; split <;> rfl
@[simp] theorem writeStatus_busy (b : Block) (v : Word) : (b.writeStatus v).busy = b.busy := by
  unfold Block.writeStatus; split <;> rfl
@[simp] theorem writeStatus_done (b : Block) (v : Word) : (b.writeStatus v).done = b.done := by
  unfold Block.writeStatus; split <;> rfl
@[simp] theorem writeStatus_err (b : Block) (v : Word) : (b.writeStatus v).err = b.err := by
  unfold Block.writeStatus; split <;> rfl
@[simp] theorem writeStatus_fatal (b : Block) (v : Word) : (b.writeStatus v).fatal = b.fatal := by
  unfold Block.writeStatus; split <;> rfl
@[simp] theorem writeStatus_bwe (b : Block) (v : Word) : (b.writeStatus v).bwe = (b.bwe && !v.getLsbD 4) := by
  unfold Block.writeStatus; split <;> simp_all
@[simp] theorem writeStatus_errcode (b : Block) (v : Word) : (b.writeStatus v).errcode = b.errcode := by
  unfold Block.writeStatus; split <;> rfl
@[simp] theorem writeStatus_errop (b : Block) (v : Word) : (b.writeStatus v).errop = b.errop := by
  unfold Block.writeStatus; split <;> rfl

/-! ## Reset -/

/-- The memory of the reset state is in canonical form. -/
theorem reset_wf : State.reset.blk.mem.wf := by decide

end Sys2Proof.Machine
end

