-- ==== Sys2Proof/Laws/Exec.lean ====
section
/-! SUPPORT. What a command's checks and computation can answer, and what `exec` can do: every arm is
the completion of the command's pseudocode, so each fact about all commands is said once here. -/

namespace Sys2Proof.Machine

/-! ## Computations that may raise -/

theorem bind_eq_ok {α β : Type} (x : Except CmdError α) (f : α → Except CmdError β) (r : β) :
    (x >>= f) = .ok r ↔ ∃ a, x = .ok a ∧ f a = .ok r := by
  cases x with
  | error e => simp [bind, Except.bind]
  | ok a => simp [bind, Except.bind]

theorem bind_eq_error {α β : Type} (x : Except CmdError α) (f : α → Except CmdError β) (e : CmdError) :
    (x >>= f) = .error e ↔ x = .error e ∨ ∃ a, x = .ok a ∧ f a = .error e := by
  cases x with
  | error e => simp [bind, Except.bind]
  | ok a => simp [bind, Except.bind]

theorem pure_eq_ok {α : Type} (a r : α) : (pure a : Except CmdError α) = .ok r ↔ a = r := by
  simp [pure, Except.pure]

theorem pure_ne_error {α : Type} (a : α) (e : CmdError) : ¬ (pure a : Except CmdError α) = .error e := by
  simp [pure, Except.pure]

/-! ## Operand and primitive checks -/

/-- `need` accepts exactly the lengths from the mandated one to the capacity (R104). -/
theorem need_ok (b : Block) (buf : Buf) (n : Nat) (h1 : n ≤ (b.lenOf buf).toNat)
    (h2 : (b.lenOf buf).toNat ≤ bufCap buf) : b.need buf n = .ok (b.mem.load (bufOffset buf) n) := by
  unfold Block.need; rw [if_neg (by omega)]

theorem need_error (b : Block) (buf : Buf) (n : Nat)
    (h : (b.lenOf buf).toNat < n ∨ (b.lenOf buf).toNat > bufCap buf) :
    b.need buf n = .error (.length buf) := by
  unfold Block.need; rw [if_pos h]

/-- All that `need` can answer. -/
theorem need_eq (b : Block) (buf : Buf) (n : Nat) [Decidable (b.passes (buf, n))] :
    b.need buf n = if b.passes (buf, n) then .ok (b.mem.load (bufOffset buf) n) else .error (.length buf) := by
  split
  · next h => exact need_ok _ _ _ h.1 h.2
  · next h => exact need_error _ _ _ (by unfold Block.passes at h; dsimp only at h; omega)

theorem need_raises (b : Block) (buf : Buf) (n : Nat) (e : CmdError) (h : b.need buf n = .error e) :
    e = .length buf := by
  unfold Block.need at h; split at h <;> simp_all

/-- `var` accepts exactly the lengths up to the capacity (R105). -/
theorem var_ok (b : Block) (buf : Buf) (h : (b.lenOf buf).toNat ≤ bufCap buf) :
    b.var buf = .ok (b.mem.load (bufOffset buf) (b.lenOf buf).toNat).toList := by
  unfold Block.var; rw [if_neg (by omega)]

theorem var_error (b : Block) (buf : Buf) (h : (b.lenOf buf).toNat > bufCap buf) :
    b.var buf = .error (.length buf) := by
  unfold Block.var; rw [if_pos h]

/-- All that `var` can answer. -/
theorem var_eq (b : Block) (buf : Buf) [Decidable (b.passes (buf, 0))] :
    b.var buf = if b.passes (buf, 0) then .ok (b.mem.load (bufOffset buf) (b.lenOf buf).toNat).toList
      else .error (.length buf) := by
  split
  · next h => exact var_ok _ _ h.2
  · next h => exact var_error _ _ (by unfold Block.passes at h; dsimp only at h; omega)

theorem var_raises (b : Block) (buf : Buf) (e : CmdError) (h : b.var buf = .error e) :
    e = .length buf := by
  unfold Block.var at h; split at h <;> simp_all

theorem currentKey_raises (b : Block) (ckp : Bool) (n : Nat) (e : CmdError)
    (h : b.currentKey ckp n = .error e) : e = .length .curkey := by
  cases ckp with
  | false => simp [Block.currentKey] at h
  | true =>
    cases hn : b.need .curkey n with
    | ok a => simp [Block.currentKey, hn, Except.map] at h
    | error e' =>
      simp [Block.currentKey, hn, Except.map] at h
      exact h ▸ need_raises _ _ _ _ hn

theorem require_ok (c : Config) (ps : List Prim) (h : ∀ p ∈ ps, c.avail.has p = true) :
    require c ps = .ok () := by
  have : ([Prim.md4, .md5, .sha1, .des].find? fun p => ps.contains p && !c.avail.has p) = none := by
    rw [List.find?_eq_none]
    intro p _
    simp only [Bool.and_eq_true, Bool.not_eq_true', not_and, Bool.not_eq_false]
    exact fun hp => h p (by simpa using hp)
  unfold require; rw [this]

theorem require_raises (c : Config) (ps : List Prim) (e : CmdError) (h : require c ps = .error e) :
    ∃ p ∈ ps, e = .prim p ∧ c.avail.has p = false := by
  unfold require at h
  split at h
  · next p hp =>
    have := List.find?_some hp
    simp only [Bool.and_eq_true, Bool.not_eq_true'] at this
    exact ⟨p, by simpa using this.1, by simpa using h.symm, this.2⟩
  · simp at h

/-! ## All commands at once -/

/-- The pseudocode of a command. -/
def cmdOf (c : Config) : Instr → Block → Except CmdError Bytes
  | .pexp => cmdPexp
  | .chapResp => cmdChapResp c
  | .lmHash => cmdLmHash c
  | .ntHash => cmdNtHash c
  | .ntHashHash => cmdNtHashHash c
  | .v1Chresp => cmdV1Chresp c
  | .lmChresp => cmdLmChresp c
  | .ntChresp => cmdNtChresp c
  | .getStartKey => cmdGetStartKey c
  | .getKey ckp k16 => cmdGetKey c ckp k16
  | .getKey40 ckp => cmdGetKey40 c ckp
  | .getKey56 ckp => cmdGetKey56 c ckp
  | .getKey128 ckp => cmdGetKey128 c ckp
  | .challengeHash => cmdChallengeHash c
  | .genNtResp => cmdGenNtResp c
  | .genAuthResp => cmdGenAuthResp c
  | .getMasterKey => cmdGetMasterKey c
  | .getAsymStartKey send server k16 => cmdGetAsymStartKey c send server k16
  | .getSessionKeys64 => cmdGetSessionKeys64 c
  | .getSessionKeys128 => cmdGetSessionKeys128 c

/-- Every arm of `exec` is the completion of its command's pseudocode. -/
theorem exec_eq_complete (i : Instr) (s : State) :
    exec i s = .next (s.complete (cmdOf Config.hw i s.blk)) := by
  cases i <;> rfl

theorem hexu_length (d : Bytes) : (hexu d).length = 2 * d.length := by
  induction d with
  | nil => rfl
  | cons b d ih => simp [hexu, ih]; omega

/-- A command that succeeds gives exactly its row's number of bytes. -/
theorem cmdOf_length (c : Config) (i : Instr) (b : Block) (r : Bytes) (h : cmdOf c i b = .ok r) :
    r.length = resultBytes i := by
  cases i <;>
    simp only [cmdOf, cmdPexp, cmdChapResp, cmdLmHash, cmdNtHash, cmdNtHashHash, cmdV1Chresp, cmdLmChresp,
      cmdNtChresp, cmdGetStartKey, cmdGetKey, cmdGetKey40, cmdGetKey56, cmdGetKey128, cmdChallengeHash,
      cmdGenNtResp, cmdGenAuthResp, cmdGetMasterKey, cmdGetAsymStartKey, cmdGetSessionKeys64,
      cmdGetSessionKeys128, bind_eq_ok, pure_eq_ok] at h
  case genAuthResp =>
    obtain ⟨p, -, nr, -, pc, -, ac, -, u, -, -, -, rfl⟩ := h
    simp [authstr, hexu_length, resultBytes]
  case getKey40 => obtain ⟨_, -, _, -, _, -, rfl⟩ := h; simp [resultBytes]
  case getKey56 => obtain ⟨_, -, _, -, _, -, rfl⟩ := h; simp [resultBytes]
  case pexp => obtain ⟨_, -, rfl⟩ := h; simp [resultBytes]
  case chapResp | v1Chresp | lmChresp | ntChresp | getStartKey | getMasterKey | getSessionKeys64 | getSessionKeys128 =>
    obtain ⟨_, -, _, -, _, -, rfl⟩ := h; exact List.Vector.toList_length _
  case getAsymStartKey send server k16 =>
    obtain ⟨_, -, _, -, rfl⟩ := h; cases k16 <;> exact List.Vector.toList_length _
  case lmHash | ntHash | ntHashHash => obtain ⟨_, -, _, -, rfl⟩ := h; simp [resultBytes]
  case getKey ckp k16 => obtain ⟨_, -, _, -, _, -, rfl⟩ := h; cases k16 <;> exact List.Vector.toList_length _
  case getKey128 => obtain ⟨_, -, _, -, _, -, _, -, rfl⟩ := h; exact List.Vector.toList_length _
  case challengeHash => obtain ⟨_, -, _, -, _, -, _, -, rfl⟩ := h; simp [resultBytes]
  case genNtResp => obtain ⟨_, -, _, -, _, -, _, -, _, -, rfl⟩ := h; simp [resultBytes]

theorem resultBytes_mem (i : Instr) : resultBytes i ∈ [8, 16, 24, 32, 42] := by
  cases i
  case getKey ckp k16 => cases k16 <;> simp [resultBytes]
  case getAsymStartKey send server k16 => cases k16 <;> simp [resultBytes]
  all_goals simp [resultBytes]

/-- A command that fails raises LENGTH of an operand, or PRIM of a primitive that is missing. -/
theorem cmdOf_error (c : Config) (i : Instr) (b : Block) (e : CmdError) (h : cmdOf c i b = .error e) :
    (∃ buf, e = .length buf) ∨ ∃ p, e = .prim p ∧ c.avail.has p = false := by
  have hn : ∀ {n buf}, b.need buf n = .error e → ∃ buf, e = .length buf := fun h => ⟨_, need_raises _ _ _ _ h⟩
  have hv : ∀ {buf}, b.var buf = .error e → ∃ buf, e = .length buf := fun h => ⟨_, var_raises _ _ _ h⟩
  have hc : ∀ {n k}, b.currentKey k n = .error e → ∃ buf, e = .length buf := fun h => ⟨_, currentKey_raises _ _ _ _ h⟩
  have hr : ∀ {ps}, require c ps = .error e → ∃ p, e = .prim p ∧ c.avail.has p = false := fun h =>
    let ⟨p, _, h⟩ := require_raises _ _ _ h; ⟨p, h⟩
  cases i <;>
    simp only [cmdOf, cmdPexp, cmdChapResp, cmdLmHash, cmdNtHash, cmdNtHashHash, cmdV1Chresp, cmdLmChresp,
      cmdNtChresp, cmdGetStartKey, cmdGetKey, cmdGetKey40, cmdGetKey56, cmdGetKey128, cmdChallengeHash,
      cmdGenNtResp, cmdGenAuthResp, cmdGetMasterKey, cmdGetAsymStartKey, cmdGetSessionKeys64,
      cmdGetSessionKeys128, bind_eq_error, pure_ne_error, and_false, exists_false, or_false] at h
  case pexp => exact .inl (hn h)
  case chapResp => obtain h | ⟨_, -, h | ⟨_, -, h⟩⟩ := h <;> [exact .inl (hv h); exact .inl (hv h); exact .inr (hr h)]
  case lmHash | ntHash | ntHashHash => obtain h | ⟨_, -, h⟩ := h <;> [exact .inl (hv h); exact .inr (hr h)]
  case getAsymStartKey => obtain h | ⟨_, -, h⟩ := h <;> [exact .inl (hn h); exact .inr (hr h)]
  case v1Chresp | getStartKey | getMasterKey =>
    obtain h | ⟨_, -, h | ⟨_, -, h⟩⟩ := h <;> [exact .inl (hn h); exact .inl (hn h); exact .inr (hr h)]
  case lmChresp | ntChresp =>
    obtain h | ⟨_, -, h | ⟨_, -, h⟩⟩ := h <;> [exact .inl (hn h); exact .inl (hv h); exact .inr (hr h)]
  case getSessionKeys64 | getSessionKeys128 =>
    obtain h | ⟨_, -, h | ⟨_, -, h⟩⟩ := h <;> [exact .inl (hv h); exact .inl (hn h); exact .inr (hr h)]
  case getKey =>
    obtain h | ⟨_, -, h | ⟨_, -, h⟩⟩ := h <;> [exact .inl (hn h); exact .inl (hc h); exact .inr (hr h)]
  case getKey40 | getKey56 =>
    obtain h | ⟨_, -, h | ⟨_, -, h⟩⟩ := h <;> [exact .inl (hv h); exact .inl (hc h); exact .inr (hr h)]
  case getKey128 =>
    obtain h | ⟨_, -, h | ⟨_, -, h | ⟨_, -, h⟩⟩⟩ := h <;>
      [exact .inl (hn h); exact .inl (hv h); exact .inl (hc h); exact .inr (hr h)]
  case challengeHash =>
    obtain h | ⟨_, -, h | ⟨_, -, h | ⟨_, -, h⟩⟩⟩ := h <;>
      [exact .inl (hn h); exact .inl (hn h); exact .inl (hv h); exact .inr (hr h)]
  case genNtResp =>
    obtain h | ⟨_, -, h | ⟨_, -, h | ⟨_, -, h | ⟨_, -, h⟩⟩⟩⟩ := h <;>
      [exact .inl (hn h); exact .inl (hn h); exact .inl (hv h); exact .inl (hv h); exact .inr (hr h)]
  case genAuthResp =>
    obtain h | ⟨_, -, h | ⟨_, -, h | ⟨_, -, h | ⟨_, -, h | ⟨_, -, h⟩⟩⟩⟩⟩ := h <;>
      [exact .inl (hv h); exact .inl (hn h); exact .inl (hn h); exact .inl (hn h); exact .inl (hv h); exact .inr (hr h)]

/-! ## Completion -/

/-- All that the end of a command can be: FATAL, the result, or an error. -/
theorem finish_cases (b : Block) (r : Except CmdError Bytes) :
    (b.fatal = true ∧ b.finish r = b.completeError .fatal) ∨
    (b.fatal = false ∧ ∃ bytes, r = .ok bytes ∧ b.finish r = b.completeOk bytes) ∨
    (b.fatal = false ∧ ∃ e, r = .error e ∧ b.finish r = b.completeError e) := by
  unfold Block.finish
  cases hf : b.fatal with
  | true => simp
  | false => cases r <;> simp

end Sys2Proof.Machine
end

