-- ==== Sys2Proof/Laws/Step.lean ====
section
/-! SUPPORT. What a host access can do to the block, and what a step can do to the machine. -/

namespace Sys2Proof.Machine

/-- Address decode of an address given by its offset (20_memory.md R61). -/
theorem windowOffset_base (c : Config) (off : Nat) (h : off < windowSize) :
    windowOffset c (c.base + off) = some off := by
  unfold windowOffset; rw [if_pos (by omega)]; congr 1; omega

theorem windowOffset_outside (c : Config) (a : Nat) (h : a < c.base ∨ c.base + windowSize ≤ a) :
    windowOffset c a = none := by
  unfold windowOffset; rw [if_neg (by omega)]

theorem windowOffset_some (c : Config) (a off : Nat) (h : windowOffset c a = some off) :
    a = c.base + off ∧ off < windowSize := by
  unfold windowOffset at h
  split at h
  · simp only [Option.some.injEq] at h; omega
  · cases h

/-! ## The register map (10_state.md R22) -/

theorem target_ctrl (off : Nat) (h : target off = .ctrl) : off = 0x010 := by
  unfold target at h; split at h <;> first | rfl | cases h | skip
  split at h
  · cases h
  · split at h <;> cases h

theorem target_status (off : Nat) (h : target off = .status) : off = 0x014 := by
  unfold target at h; split at h <;> first | rfl | cases h | skip
  split at h
  · cases h
  · split at h <;> cases h

theorem target_cmd (off : Nat) (h : target off = .cmd) : off = 0x018 := by
  unfold target at h; split at h <;> first | rfl | cases h | skip
  split at h
  · cases h
  · split at h <;> cases h

theorem bufAt_of_target (off : Nat) (buf : Buf) (h : target off = .buf buf) : bufAt off = some buf := by
  unfold target at h; split at h <;> first | cases h | skip
  split at h
  · next hb => cases h; exact hb
  · split at h <;> cases h

theorem bufAt_range (off : Nat) (buf : Buf) (h : bufAt off = some buf) :
    bufOffset buf ≤ off ∧ off < bufOffset buf + bufCap buf := by
  simpa using List.find?_some h

/-! ## Reads and writes -/

/-- A step that is a read of an aligned offset. -/
theorem step_read (s : State) (off : Nat) (rest : List PortEvent) (ho : off < 4096) (h4 : off % 4 = 0)
    (hp : s.port = .access ⟨Config.hw.base + off, 32, .read⟩ :: rest) :
    step s = .next { blk := s.blk, port := rest, reply := some (.data (s.blk.readAt Config.hw off)) } := by
  unfold step; rw [hp]; simp only [hostStep, Block.access]
  rw [windowOffset_base _ _ ho]; simp [h4]

/-- A step that is a write to an aligned offset. -/
theorem step_write (s : State) (off : Nat) (v : Word) (rest : List PortEvent) (ho : off < 4096) (h4 : off % 4 = 0)
    (hp : s.port = .access ⟨Config.hw.base + off, 32, .write v⟩ :: rest) :
    step s = .next { blk := s.blk.writeAt off v, port := rest, reply := some .ack } := by
  unfold step; rw [hp]; simp only [hostStep, Block.access]
  rw [windowOffset_base _ _ ho]; simp [h4]

/-- A run of one step more. -/
theorem run_succ (n : Nat) (s t : State) (h : step s = .next t) : core.run (n + 1) s = core.run n t := by
  have h : core.step s = .next t := h
  simp only [Host.Core.run]; rw [h]

/-- A write while BUSY = 1 to any offset but CTRL is dropped and sets BWE (70_reset_and_hazards.md
R257). -/
theorem writeAt_busy (b : Block) (off : Nat) (v : Word) (hb : b.busy = true) (ht : target off ≠ .ctrl) :
    b.writeAt off v = { b with bwe := true } := by
  unfold Block.writeAt; rw [if_pos ⟨hb, ht⟩]

/-- All that an accepted write can do (20_memory.md R65). -/
theorem writeAt_cases (b : Block) (off : Nat) (v : Word) :
    (b.busy = true ∧ target off ≠ .ctrl ∧ b.writeAt off v = { b with bwe := true }) ∨
    (target off = .ctrl ∧ v.getLsbD 0 = true ∧ b.writeAt off v = Block.reset) ∨
    (b.busy = false ∧ target off = .status ∧ b.writeAt off v = b.writeStatus v) ∨
    (b.busy = false ∧ target off = .cmd ∧ b.writeAt off v = b.issue v) ∨
    (b.busy = false ∧ target off = .id ∧ b.writeAt off v = { b with id := v.setWidth 8 }) ∨
    (b.busy = false ∧ ∃ buf, target off = .len buf ∧ b.writeAt off v = b.setLen buf (v.setWidth 16)) ∨
    (b.busy = false ∧ ∃ buf, target off = .buf buf ∧
      b.writeAt off v = { b with mem := b.mem.writeWord off v }) ∨
    b.writeAt off v = b := by
  by_cases h : b.busy = true ∧ target off ≠ .ctrl
  · exact .inl ⟨h.1, h.2, writeAt_busy b off v h.1 h.2⟩
  · have hw : ∀ x, target off = x → b.writeAt off v =
        (match x with
        | .ctrl => b.writeCtrl v
        | .status => b.writeStatus v
        | .cmd => b.issue v
        | .id => { b with id := v.setWidth 8 }
        | .len buf => b.setLen buf (v.setWidth 16)
        | .buf _ => { b with mem := b.mem.writeWord off v }
        | .blockId | .rev | .cap0 | .cap1 | .outLen | .out | .reserved => b) := by
      intro x hx; unfold Block.writeAt; rw [if_neg h]; subst hx; rfl
    have hb : target off ≠ .ctrl → b.busy = false := fun ht => by
      cases hb : b.busy with
      | false => rfl
      | true => exact absurd ⟨hb, ht⟩ h
    cases hx : target off with
    | ctrl =>
      have := hw _ hx
      simp only [Block.writeCtrl, resetNow_eq] at this
      by_cases hv : v.getLsbD 0 = true
      · exact .inr (.inl ⟨rfl, hv, by rw [this, if_pos hv]⟩)
      · exact .inr (.inr (.inr (.inr (.inr (.inr (.inr (by rw [this, if_neg hv])))))))
    | status => exact .inr (.inr (.inl ⟨hb (by simp [hx]), rfl, hw _ hx⟩))
    | cmd => exact .inr (.inr (.inr (.inl ⟨hb (by simp [hx]), rfl, hw _ hx⟩)))
    | id => exact .inr (.inr (.inr (.inr (.inl ⟨hb (by simp [hx]), rfl, hw _ hx⟩))))
    | len buf => exact .inr (.inr (.inr (.inr (.inr (.inl ⟨hb (by simp [hx]), buf, rfl, hw _ hx⟩)))))
    | buf buf => exact .inr (.inr (.inr (.inr (.inr (.inr (.inl ⟨hb (by simp [hx]), buf, rfl, hw _ hx⟩))))))
    | blockId | rev | cap0 | cap1 | outLen | out | reserved =>
      exact .inr (.inr (.inr (.inr (.inr (.inr (.inr (hw _ hx)))))))

/-- All that a host access that gets an answer can do to the block: nothing, or an accepted write. -/
theorem access_cases (c : Config) (b : Block) (a : Access) :
    (b.access c a).2 = b ∨
    ∃ off v, windowOffset c a.addr = some off ∧ a.width = 32 ∧ off % 4 = 0 ∧ a.op = .write v ∧
      (b.access c a).2 = b.writeAt off v := by
  unfold Block.access
  split
  · exact .inl rfl
  · next off ho =>
    split
    · next h =>
      split
      · exact .inl rfl
      · next v hv => exact .inr ⟨off, v, ho, h.1, h.2, hv, rfl⟩
    · exact .inl rfl

/-- All that a step can answer `next` for: the pending command's completion, a turn with nothing to
do, a reset, or a host access. -/
theorem step_cases (s t : State) (h : step s = .next t) :
    (∃ rest, t.port = rest ∧ (s.port = [] ∧ rest = [] ∨ s.port = .sequencer :: rest) ∧ t.reply = s.reply ∧
      ((s.blk.busy = false ∧ t.blk = s.blk) ∨
       (s.blk.busy = true ∧ ∃ i, decode s.blk.cmd = .ok i ∧ t.blk = s.blk.finish (cmdOf Config.hw i s.blk)) ∨
       (s.blk.busy = true ∧ ∃ e, decode s.blk.cmd = .error e ∧ t.blk = s.blk.finish (.error .illegal)))) ∨
    (∃ rest, s.port = .hardReset :: rest ∧ t = { blk := Block.reset, port := rest, reply := s.reply }) ∨
    (∃ a rest, s.port = .access a :: rest ∧ (s.blk.access Config.hw a).1 ≠ .busError ∧
      t = { blk := (s.blk.access Config.hw a).2, port := rest, reply := some (s.blk.access Config.hw a).1 }) := by
  have hseq : ∀ u : State, sequencerTurn u = .next t → t.port = u.port ∧ t.reply = u.reply ∧
      ((u.blk.busy = false ∧ t.blk = u.blk) ∨
       (u.blk.busy = true ∧ ∃ i, decode u.blk.cmd = .ok i ∧ t.blk = u.blk.finish (cmdOf Config.hw i u.blk)) ∨
       (u.blk.busy = true ∧ ∃ e, decode u.blk.cmd = .error e ∧ t.blk = u.blk.finish (.error .illegal))) := by
    intro u hu
    unfold sequencerTurn completePending completeIllegal at hu
    split at hu
    · next hb =>
      split at hu
      · next i hi =>
        rw [exec_eq_complete] at hu
        cases hu
        exact ⟨rfl, rfl, .inr (.inl ⟨hb, i, hi, rfl⟩)⟩
      · next e he =>
        cases hu
        exact ⟨rfl, rfl, .inr (.inr ⟨hb, e, he, rfl⟩)⟩
    · next hb => cases hu; exact ⟨rfl, rfl, .inl ⟨by simpa using hb, rfl⟩⟩
  unfold step at h
  split at h
  · next hp =>
    obtain ⟨h1, h2, h3⟩ := hseq s h
    exact .inl ⟨[], by rw [h1, hp], .inl ⟨hp, rfl⟩, h2, h3⟩
  · next rest hp =>
    obtain ⟨h1, h2, h3⟩ := hseq _ h
    exact .inl ⟨rest, h1, .inr hp, h2, h3⟩
  · next rest hp =>
    cases h
    exact .inr (.inl ⟨rest, hp, rfl⟩)
  · next a rest hp =>
    unfold hostStep at h
    split at h
    · cases h
    · next r b hne hb =>
      cases h
      refine .inr (.inr ⟨a, rest, hp, ?_, ?_⟩)
      · intro he
        dsimp only at hb
        rw [hb] at he
        exact hne he
      · dsimp only at hb
        rw [hb]

/-- A host access while BUSY = 1 that is neither a bus error nor a soft reset: only BWE can change
(70_reset_and_hazards.md R257). -/
theorem step_access_busy (s : State) (a : Access) (rest : List PortEvent) (hp : s.port = .access a :: rest)
    (ha : a.clean Config.hw) (hb : s.blk.busy = true)
    (hr : ∀ v, a.op = .write v → windowOffset Config.hw a.addr = some 0x010 → v.getLsbD 0 = false) :
    ∃ t, step s = .next t ∧ t.port = rest ∧ t.blk = { s.blk with bwe := t.blk.bwe } := by
  obtain ⟨addr, width, op⟩ := a
  unfold step; rw [hp]; simp only [hostStep, Block.access]
  unfold Access.clean at ha
  cases ho : windowOffset Config.hw addr with
  | none => exact ⟨_, rfl, rfl, rfl⟩
  | some off =>
    simp only [ho] at ha hr
    simp only [ha, and_self, if_true]
    cases op with
    | read => exact ⟨_, rfl, rfl, rfl⟩
    | write v =>
      refine ⟨_, rfl, rfl, ?_⟩
      dsimp only
      by_cases ht : target off = .ctrl
      · have := target_ctrl off ht; subst this
        have hv := hr v rfl rfl
        simp only [Block.writeAt, ht, Block.writeCtrl, hv, ne_eq, not_true_eq_false, and_false, if_false,
          Bool.false_eq_true]
      · rw [writeAt_busy _ _ _ hb ht]

end Sys2Proof.Machine
end

