-- ==== Sys2Proof/Laws/Complete.lean ====
section
/-! SUPPORT. The two endings of a command in the terms claims use: a completion of a pending command is
`Succeeded` or `Failed` (spec 60_exceptions.md R227, R228). -/

namespace Sys2Proof.Machine

theorem inOut_false (x : Nat) (h : inOut x = false) : x < outOffset ∨ outOffset + outCap ≤ x := by
  simp only [inOut, Bool.and_eq_false_iff, decide_eq_false_iff_not] at h; omega

/-- An issue leaves a pending command (60_exceptions.md R225). -/
theorem issue_pending (b : Block) (v : Word) : (b.issue v).pending := by
  refine ⟨rfl, rfl, rfl, rfl, rfl, rfl, fun k hk => ?_⟩
  simp only [Block.outByte, issue_mem, readByte_clear]
  rw [if_pos (by omega)]; rfl

/-- The success of a pending command (R227). -/
theorem complete_succeeded (s : State) (r : Bytes) (hp : s.blk.pending) (hf : s.blk.fatal = false)
    (hr : r.length ≤ outCap) : Succeeded s (s.complete (.ok r)) r := by
  obtain ⟨-, -, he, hc, hi, -, ho⟩ := hp
  have hb : (s.complete (.ok r)).blk = s.blk.completeOk r := by simp [Block.finish, hf]
  have hmem : ∀ k, (s.blk.completeOk r).outByte k =
      if h : k < r.length then r[k] else s.blk.outByte k := by
    intro k
    simp only [Block.outByte, completeOk_mem]
    by_cases h : k < r.length
    · rw [dif_pos h]; exact readByte_store_inside _ _ _ _ h
    · rw [dif_neg h]; exact readByte_store_outside _ _ _ _ (by omega)
  constructor
  case toCompleted =>
    constructor
    case memory =>
      intro x hx
      rw [hb, completeOk_mem]
      exact readByte_store_outside _ _ _ _ (by have := inOut_false x hx; omega)
    case lens => intro buf; rw [hb]; simp
    all_goals first | rw [hb]; simp | simp
  case result => intro k h; rw [hb, hmem, dif_pos h]
  case rest => intro k h1 h2; rw [hb, hmem, dif_neg (by omega)]; exact ho k h2
  case outLen =>
    rw [hb, completeOk_outLen, BitVec.toNat_ofNat]
    simp only [outCap] at hr
    omega
  case err => rw [hb]; simpa using he
  case errcode => rw [hb]; simpa using hc
  case errop => rw [hb]; simpa using hi
  case fatal => rw [hb]; simp

theorem completeError_failed (s t : State) (e : CmdError) (hp : s.blk.pending)
    (ht : t = { s with blk := s.blk.completeError e }) : Failed s t e.code e.info := by
  subst ht
  obtain ⟨-, -, -, -, -, hl, ho⟩ := hp
  constructor
  case toCompleted =>
    constructor
    case lens => intro buf; simp
    case memory => intro x _; simp
    all_goals simp
  case out => intro k hk; simpa [Block.outByte] using ho k hk
  case outLen => simpa using hl
  case fatal => cases e <;> simp [CmdError.code, CmdError.setsFatal]
  all_goals simp

/-- The error completion of a pending command (R228). -/
theorem complete_failed (s : State) (e : CmdError) (hp : s.blk.pending) (hf : s.blk.fatal = false) :
    Failed s (s.complete (.error e)) e.code e.info :=
  completeError_failed s _ e hp (by simp [State.complete, Block.finish, hf])

/-- With FATAL = 1 a pending command ends with the error FATAL whatever it is (R223 step 1). -/
theorem complete_fatal (s : State) (r : Except CmdError Bytes) (hp : s.blk.pending) (hf : s.blk.fatal = true) :
    Failed s (s.complete r) 4 0 :=
  completeError_failed s _ .fatal hp (by simp [State.complete, Block.finish, hf])

/-! ## The bytes of an operand -/

@[simp] theorem bytes_length (b : Block) (buf : Buf) (n : Nat) : (b.bytes buf n).length = n := by
  simp [Block.bytes]

theorem load_eq_bytes (b : Block) (buf : Buf) (n : Nat) :
    (b.mem.load (bufOffset buf) n).toList = b.bytes buf n := rfl

theorem bytes_take (b : Block) (buf : Buf) (n m : Nat) (h : m ≤ n) :
    (b.bytes buf n).take m = b.bytes buf m := by
  unfold Block.bytes
  rw [← List.map_take, List.take_range, Nat.min_eq_left h]

theorem bytes_congr (b b' : Block) (buf : Buf) (n : Nat) (h : ∀ k, k < n → b.bufByte buf k = b'.bufByte buf k) :
    b.bytes buf n = b'.bytes buf n :=
  List.map_congr_left fun k hk => h k (List.mem_range.1 hk)

end Sys2Proof.Machine
end

