-- ==== Sys2Proof/Laws/Decode.lean ====
section
/-! SUPPORT. Small lemmas about the command word: its fields, and the written form. -/

namespace Sys2Proof

@[simp] theorem asm_build (i : Instr) : i.asm.build = i := by cases i <;> rfl

theorem opcodeMnemonic_opcode (m : Mnemonic) : opcodeMnemonic m.opcode = some m := by cases m <;> rfl

/-- The opcode map read backwards. -/
theorem opcode_of_opcodeMnemonic : ∀ opc : BitVec 8, ∀ m ∈ opcodeMnemonic opc, opc = m.opcode := by
  decide +kernel

/-- A well-formed written form is the written form of the command it stands for. -/
theorem build_asm (a : AsmCmd) (h : a.wf = true) : a.build.asm = a := by
  obtain ⟨m, s, v, c, k⟩ := a
  revert h
  cases m <;> cases s <;> cases v <;> cases c <;> cases k <;> decide

/-- `Instr` carries only allowed flags, so every term of it is well formed. -/
theorem instr_wf (i : Instr) : i.wf = true := by
  cases i <;> simp [Instr.wf, Instr.asm, AsmCmd.wf, Flags.within, Mnemonic.allowed]

/-- The fields of the word of a written form are the form's. -/
theorem ofWord_word (a : AsmCmd) : C32.ofWord a.word = ⟨a.mnemonic.opcode, a.flags, 0⟩ := by
  obtain ⟨m, s, v, c, k⟩ := a
  cases m <;> cases s <;> cases v <;> cases c <;> cases k <;> decide

end Sys2Proof
end

