-- ==== Sys2Proof/Laws/PerInstr.lean ====
section
/-! SUPPORT. Facts made per instruction: family WordOfWellFormed. -/

namespace Sys2Proof.Laws.WordOfWellFormed

/-- The instruction's written form passes the assembler's checks, and its word is legal (spec
30_encoding.md R82, R86, R87). -/
def Statement (i : Instr) : Prop := i.wf = true ∧ legal (encode i) = true

theorem pexp : Statement .pexp := by unfold Statement; decide
theorem chapResp : Statement .chapResp := by unfold Statement; decide
theorem lmHash : Statement .lmHash := by unfold Statement; decide
theorem ntHash : Statement .ntHash := by unfold Statement; decide
theorem ntHashHash : Statement .ntHashHash := by unfold Statement; decide
theorem v1Chresp : Statement .v1Chresp := by unfold Statement; decide
theorem lmChresp : Statement .lmChresp := by unfold Statement; decide
theorem ntChresp : Statement .ntChresp := by unfold Statement; decide
theorem getStartKey : Statement .getStartKey := by unfold Statement; decide
theorem getKey (ckp k16 : Bool) : Statement (.getKey ckp k16) := by
  unfold Statement; cases ckp <;> cases k16 <;> decide
theorem getKey40 (ckp : Bool) : Statement (.getKey40 ckp) := by unfold Statement; cases ckp <;> decide
theorem getKey56 (ckp : Bool) : Statement (.getKey56 ckp) := by unfold Statement; cases ckp <;> decide
theorem getKey128 (ckp : Bool) : Statement (.getKey128 ckp) := by unfold Statement; cases ckp <;> decide
theorem challengeHash : Statement .challengeHash := by unfold Statement; decide
theorem genNtResp : Statement .genNtResp := by unfold Statement; decide
theorem genAuthResp : Statement .genAuthResp := by unfold Statement; decide
theorem getMasterKey : Statement .getMasterKey := by unfold Statement; decide
theorem getAsymStartKey (send server k16 : Bool) : Statement (.getAsymStartKey send server k16) := by
  unfold Statement; cases send <;> cases server <;> cases k16 <;> decide
theorem getSessionKeys64 : Statement .getSessionKeys64 := by unfold Statement; decide
theorem getSessionKeys128 : Statement .getSessionKeys128 := by unfold Statement; decide

end Sys2Proof.Laws.WordOfWellFormed
end

