-- ==== Sys2Proof/Tests/Reference.lean ====
section
/-! SUPPORT. Reference definitions of the four primitives, for tests only: the spec's 00_scope.md R9
names them (MD4 of RFC 1320, MD5 of RFC 1321, SHA-1 of FIPS 180-1, DES of FIPS 46-3) and
93_implementation_defined.md I1 says they "instantiate the fields for testing". The model itself
keeps the primitives opaque. PRESUMED: the algorithms are written from general knowledge. -/

namespace Sys2Proof.Tests.Reference

/-! ## Words modulo 2^32 as natural numbers -/

def m32 : Nat := 4294967296
def rol (x n : Nat) : Nat := (x <<< n ||| x >>> (32 - n)) % m32
def not32 (x : Nat) : Nat := 4294967295 - x

def leBytes : Nat → Nat → List Nat
  | 0, _ => []
  | n + 1, v => v % 256 :: leBytes n (v / 256)

def beNat (b : List Nat) : Nat := b.foldl (fun a x => a * 256 + x) 0

def nats (m : Bytes) : List Nat := m.map BitVec.toNat

/-- Exactly `n` bytes of a list, missing ones 0. -/
def fixed (n : Nat) (l : List Nat) : BytesN n :=
  ⟨(List.range n).map fun k => BitVec.ofNat 8 (l.getD k 0), by simp⟩

def chunks (k : Nat) : Nat → List Nat → List (List Nat)
  | 0, _ => []
  | fuel + 1, l => if l.isEmpty then [] else l.take k :: chunks k fuel (l.drop k)

/-- Padding to whole 64-byte blocks, the bit length in 8 bytes. -/
def padded (big : Bool) (m : List Nat) : List (List Nat) :=
  let len := leBytes 8 (8 * m.length)
  let z := (119 - m.length % 64) % 64
  let all := m ++ [0x80] ++ List.replicate z 0 ++ (if big then len.reverse else len)
  chunks 64 (m.length / 64 + 2) all

structure Regs where
  a : Nat
  b : Nat
  c : Nat
  d : Nat

def out16 (r : Regs) : BytesN 16 := fixed 16 (leBytes 4 r.a ++ leBytes 4 r.b ++ leBytes 4 r.c ++ leBytes 4 r.d)

def iv16 : Regs := ⟨0x67452301, 0xefcdab89, 0x98badcfe, 0x10325476⟩

def wordsLe (blk : List Nat) : List Nat := (chunks 4 16 blk).map fun w => beNat w.reverse

/-! ## MD4 -/

def md4Step (x : List Nat) (r : Regs) (i : Nat) : Regs :=
  let j := i % 16
  let f := if i < 16 then (r.b &&& r.c) ||| (not32 r.b &&& r.d)
    else if i < 32 then (r.b &&& r.c) ||| (r.b &&& r.d) ||| (r.c &&& r.d) else r.b ^^^ r.c ^^^ r.d
  let k := if i < 16 then j else if i < 32 then (j % 4) * 4 + j / 4
    else [0, 8, 4, 12, 2, 10, 6, 14, 1, 9, 5, 13, 3, 11, 7, 15].getD j 0
  let t := if i < 16 then 0 else if i < 32 then 0x5a827999 else 0x6ed9eba1
  let s := (if i < 16 then [3, 7, 11, 19] else if i < 32 then [3, 5, 9, 13] else [3, 9, 11, 15]).getD (i % 4) 0
  ⟨r.d, rol ((r.a + f + x.getD k 0 + t) % m32) s, r.b, r.c⟩

def mdBlock (steps : Nat) (f : List Nat → Regs → Nat → Regs) (r : Regs) (blk : List Nat) : Regs :=
  let q := (List.range steps).foldl (f (wordsLe blk)) r
  ⟨(r.a + q.a) % m32, (r.b + q.b) % m32, (r.c + q.c) % m32, (r.d + q.d) % m32⟩

def md4 (m : Bytes) : BytesN 16 := out16 ((padded false (nats m)).foldl (mdBlock 48 md4Step) iv16)

/-! ## MD5 -/

def md5K : List Nat :=
  [0xd76aa478, 0xe8c7b756, 0x242070db, 0xc1bdceee, 0xf57c0faf, 0x4787c62a, 0xa8304613, 0xfd469501] ++
  [0x698098d8, 0x8b44f7af, 0xffff5bb1, 0x895cd7be, 0x6b901122, 0xfd987193, 0xa679438e, 0x49b40821] ++
  [0xf61e2562, 0xc040b340, 0x265e5a51, 0xe9b6c7aa, 0xd62f105d, 0x02441453, 0xd8a1e681, 0xe7d3fbc8] ++
  [0x21e1cde6, 0xc33707d6, 0xf4d50d87, 0x455a14ed, 0xa9e3e905, 0xfcefa3f8, 0x676f02d9, 0x8d2a4c8a] ++
  [0xfffa3942, 0x8771f681, 0x6d9d6122, 0xfde5380c, 0xa4beea44, 0x4bdecfa9, 0xf6bb4b60, 0xbebfbc70] ++
  [0x289b7ec6, 0xeaa127fa, 0xd4ef3085, 0x04881d05, 0xd9d4d039, 0xe6db99e5, 0x1fa27cf8, 0xc4ac5665] ++
  [0xf4292244, 0x432aff97, 0xab9423a7, 0xfc93a039, 0x655b59c3, 0x8f0ccc92, 0xffeff47d, 0x85845dd1] ++
  [0x6fa87e4f, 0xfe2ce6e0, 0xa3014314, 0x4e0811a1, 0xf7537e82, 0xbd3af235, 0x2ad7d2bb, 0xeb86d391]

def md5Step (x : List Nat) (r : Regs) (i : Nat) : Regs :=
  let f := if i < 16 then (r.b &&& r.c) ||| (not32 r.b &&& r.d)
    else if i < 32 then (r.d &&& r.b) ||| (not32 r.d &&& r.c)
    else if i < 48 then r.b ^^^ r.c ^^^ r.d else r.c ^^^ (r.b ||| not32 r.d)
  let k := (if i < 16 then i else if i < 32 then 5 * i + 1 else if i < 48 then 3 * i + 5 else 7 * i) % 16
  let s := (if i < 16 then [7, 12, 17, 22] else if i < 32 then [5, 9, 14, 20]
    else if i < 48 then [4, 11, 16, 23] else [6, 10, 15, 21]).getD (i % 4) 0
  ⟨r.d, (r.b + rol ((r.a + f + x.getD k 0 + md5K.getD i 0) % m32) s) % m32, r.b, r.c⟩

def md5 (m : Bytes) : BytesN 16 := out16 ((padded false (nats m)).foldl (mdBlock 64 md5Step) iv16)

/-! ## SHA-1 -/

/-- The 80 schedule words, newest first. -/
def shaSchedule (blk : List Nat) : List Nat :=
  let w0 := ((chunks 4 16 blk).map beNat).reverse
  (List.range 64).foldl
    (fun w _ => rol (w.getD 2 0 ^^^ w.getD 7 0 ^^^ w.getD 13 0 ^^^ w.getD 15 0) 1 :: w) w0

structure Sha where
  r : Regs
  e : Nat
  i : Nat

def shaStep (q : Sha) (w : Nat) : Sha :=
  let r := q.r
  let f := if q.i < 20 then (r.b &&& r.c) ||| (not32 r.b &&& r.d)
    else if q.i < 40 then r.b ^^^ r.c ^^^ r.d
    else if q.i < 60 then (r.b &&& r.c) ||| (r.b &&& r.d) ||| (r.c &&& r.d) else r.b ^^^ r.c ^^^ r.d
  let k := if q.i < 20 then 0x5a827999 else if q.i < 40 then 0x6ed9eba1
    else if q.i < 60 then 0x8f1bbcdc else 0xca62c1d6
  ⟨⟨(rol r.a 5 + f + q.e + k + w) % m32, r.a, rol r.b 30, r.c⟩, r.d, q.i + 1⟩

def shaBlock (q : Sha) (blk : List Nat) : Sha :=
  let t := (shaSchedule blk).reverse.foldl shaStep { q with i := 0 }
  ⟨⟨(q.r.a + t.r.a) % m32, (q.r.b + t.r.b) % m32, (q.r.c + t.r.c) % m32, (q.r.d + t.r.d) % m32⟩,
    (q.e + t.e) % m32, 0⟩

def sha1 (m : Bytes) : BytesN 20 :=
  let q := (padded true (nats m)).foldl shaBlock ⟨iv16, 0xc3d2e1f0, 0⟩
  fixed 20 ((leBytes 4 q.r.a).reverse ++ (leBytes 4 q.r.b).reverse ++ (leBytes 4 q.r.c).reverse ++
    (leBytes 4 q.r.d).reverse ++ (leBytes 4 q.e).reverse)

/-! ## DES. Bit 1 of a table is the most significant of its `w` bits. -/

def permute (w : Nat) (table : List Nat) (n : Nat) : Nat :=
  table.foldl (fun a i => 2 * a + n >>> (w - i) % 2) 0

def tableIP : List Nat :=
  [58, 50, 42, 34, 26, 18, 10, 2, 60, 52, 44, 36, 28, 20, 12, 4] ++
  [62, 54, 46, 38, 30, 22, 14, 6, 64, 56, 48, 40, 32, 24, 16, 8] ++
  [57, 49, 41, 33, 25, 17, 9, 1, 59, 51, 43, 35, 27, 19, 11, 3] ++
  [61, 53, 45, 37, 29, 21, 13, 5, 63, 55, 47, 39, 31, 23, 15, 7]

def tableFP : List Nat :=
  [40, 8, 48, 16, 56, 24, 64, 32, 39, 7, 47, 15, 55, 23, 63, 31] ++
  [38, 6, 46, 14, 54, 22, 62, 30, 37, 5, 45, 13, 53, 21, 61, 29] ++
  [36, 4, 44, 12, 52, 20, 60, 28, 35, 3, 43, 11, 51, 19, 59, 27] ++
  [34, 2, 42, 10, 50, 18, 58, 26, 33, 1, 41, 9, 49, 17, 57, 25]

def tableE : List Nat :=
  [32, 1, 2, 3, 4, 5, 4, 5, 6, 7, 8, 9, 8, 9, 10, 11] ++
  [12, 13, 12, 13, 14, 15, 16, 17, 16, 17, 18, 19, 20, 21, 20, 21] ++
  [22, 23, 24, 25, 24, 25, 26, 27, 28, 29, 28, 29, 30, 31, 32, 1]

def tableP : List Nat :=
  [16, 7, 20, 21, 29, 12, 28, 17, 1, 15, 23, 26, 5, 18, 31, 10] ++
  [2, 8, 24, 14, 32, 27, 3, 9, 19, 13, 30, 6, 22, 11, 4, 25]

def tablePC1 : List Nat :=
  [57, 49, 41, 33, 25, 17, 9, 1, 58, 50, 42, 34, 26, 18] ++
  [10, 2, 59, 51, 43, 35, 27, 19, 11, 3, 60, 52, 44, 36] ++
  [63, 55, 47, 39, 31, 23, 15, 7, 62, 54, 46, 38, 30, 22] ++
  [14, 6, 61, 53, 45, 37, 29, 21, 13, 5, 28, 20, 12, 4]

def tablePC2 : List Nat :=
  [14, 17, 11, 24, 1, 5, 3, 28, 15, 6, 21, 10, 23, 19, 12, 4] ++
  [26, 8, 16, 7, 27, 20, 13, 2, 41, 52, 31, 37, 47, 55, 30, 40] ++
  [51, 45, 33, 48, 44, 49, 39, 56, 34, 53, 46, 42, 50, 36, 29, 32]

/-- The eight S-boxes, 64 hexadecimal digits each, row by row. -/
def sboxes : List Nat :=
  [0xe4d12fb83a6c59070f74e2d1a6cb953841e8d62bfc973a50fc8249175b3ea06d,
    0xf18e6b34972dc05a3d47f28ec01a69b50e7ba4d158c6932fd8a13f42b67c05e9,
    0xa09e63f51dc7b428d709346a285ecbf1d6498f30b12c5ae71ad069874fe3b52c,
    0x7de3069a1285bc4fd8b56f03472c1ae9a690cb7df13e52843f06a1d8945bc72e,
    0x2c417ab6853fd0e9eb2c47d150fa3986421bad78f9c5630eb8c71e2d6f09a453,
    0xc1af92680d34e75baf427c9561de0b389ef528c3704a1db6432c95fabe17608d,
    0x4b2ef08d3c975a61d0b7491ae35c2f8614bdc37eaf6805926bd814a7950fe23c,
    0xd2846fb1a93e50c71fd8a374c56b0e927b419ce206adf35821e74a8dfc90356b]

def sbox (box x : Nat) : Nat :=
  let i := (x / 32 * 2 + x % 2) * 16 + x / 2 % 16
  (sboxes.getD box 0) >>> (4 * (63 - i)) % 16

def desF (r k : Nat) : Nat :=
  let x := permute 32 tableE r ^^^ k
  permute 32 tableP ((List.range 8).foldl (fun a j => 16 * a + sbox j (x >>> (42 - 6 * j) % 64)) 0)

def rol28 (x n : Nat) : Nat := (x <<< n ||| x >>> (28 - n)) % 268435456

structure DesState where
  l : Nat
  r : Nat
  c : Nat
  d : Nat

def desRound (q : DesState) (shift : Nat) : DesState :=
  let c := rol28 q.c shift
  let d := rol28 q.d shift
  ⟨q.r, q.l ^^^ desF q.r (permute 56 tablePC2 (c * 268435456 + d)), c, d⟩

def desShifts : List Nat := [1, 1, 2, 2, 2, 2, 2, 2, 1, 2, 2, 2, 2, 2, 2, 1]

def des (k p : BytesN 8) : BytesN 8 :=
  let cd := permute 64 tablePC1 (beNat (nats k.toList))
  let lr := permute 64 tableIP (beNat (nats p.toList))
  let q := desShifts.foldl desRound ⟨lr / m32, lr % m32, cd / 268435456, cd % 268435456⟩
  fixed 8 (leBytes 8 (permute 64 tableFP (q.r * m32 + q.l))).reverse

/-- A configuration with the reference primitives, all available, at address 0x1000. -/
def config : Config :=
  { basePage := 1, avail := ⟨true, true, true, true⟩, md4 := md4, md5 := md5, sha1 := sha1, des := des }

end Sys2Proof.Tests.Reference
end

