-- ==== Sys2Proof/Tests/Slice0.lean ====
section
/-! SUPPORT. The model's own tests, each on one word, one command or one access, and a witness for the
hypotheses of every obligation that has any. Expected values come from spec/: the encodings of
30_encoding.md R80, R85 and R86, the vectors of 95_test_vectors.md, the tables of 10_state.md and
20_memory.md. Digests are computed with the reference primitives of Tests/Reference.lean. -/

namespace Sys2Proof.Tests

open Sys2Proof Sys2Proof.Machine

/-! ## Helpers -/

/-- `n` bytes written as one number, as `hex:` writes them (00_scope.md R8). -/
def hex (n v : Nat) : Bytes := (List.range n).map fun k => BitVec.ofNat 8 (v >>> (8 * (n - 1 - k)))

/-- A buffer loaded and its length register set. -/
def put (buf : Buf) (d : Bytes) (b : Block) : Block :=
  { b.setLen buf (BitVec.ofNat 16 d.length) with mem := b.mem.store (bufOffset buf) d }

/-- A length register set, its buffer left zero. -/
def len (buf : Buf) (n : Nat) (b : Block) : Block := b.setLen buf (BitVec.ofNat 16 n)

/-- The result of a command's pseudocode is the byte string `d`. -/
def gives (r : Except CmdError Bytes) (d : Bytes) : Bool :=
  match r with
  | .ok x => x == d
  | .error _ => false

/-- STATUS after the completion of a command whose pseudocode gave `r`, issued on `b`. -/
def statusOf (b : Block) (r : Except CmdError Bytes) : Word := ((b.issue 0).finish r).statusWord

/-- The reference configuration with another PRIM_AVAIL. -/
def withPrims (md4 md5 sha1 des : Bool) : Config := { Reference.config with avail := ⟨md4, md5, sha1, des⟩ }

/-- A state whose next step is the sequencer's, on the command word `w`. -/
def pendingState (w : Word) (b : Block) : State := { blk := b.issue w, port := [], reply := none }

/-- A state whose next step is a host access at an offset. -/
def accessState (b : Block) (off : Nat) (op : BusOp) : State :=
  { blk := b, port := [.access ⟨Config.hw.base + off, 32, op⟩], reply := none }

abbrev ref : Config := Reference.config
abbrev r0 : Block := Block.reset

/-! ## Decoding: words written bit by bit from R80 (bits 31:12, then K16 CKP SERVER SEND, then opcode)
and the opcodes of R85 -/

/-- The fields of C32 put side by side. -/
def c32 (rsv : BitVec 20) (flags : BitVec 4) (opc : BitVec 8) : Word := rsv ++ flags ++ opc

theorem test_decode_pexp : decode (c32 0b00000000000000000000 0b0000 0b00000001) = .ok .pexp := by decide
theorem test_decode_chapResp : decode (c32 0b00000000000000000000 0b0000 0b00010000) = .ok .chapResp := by decide
theorem test_decode_lmHash : decode (c32 0b00000000000000000000 0b0000 0b00100000) = .ok .lmHash := by decide
theorem test_decode_ntHash : decode (c32 0b00000000000000000000 0b0000 0b00100001) = .ok .ntHash := by decide
theorem test_decode_ntHashHash : decode (c32 0b00000000000000000000 0b0000 0b00100010) = .ok .ntHashHash := by decide
theorem test_decode_v1Chresp : decode (c32 0b00000000000000000000 0b0000 0b00100011) = .ok .v1Chresp := by decide
theorem test_decode_lmChresp : decode (c32 0b00000000000000000000 0b0000 0b00100100) = .ok .lmChresp := by decide
theorem test_decode_ntChresp : decode (c32 0b00000000000000000000 0b0000 0b00100101) = .ok .ntChresp := by decide
theorem test_decode_getStartKey : decode (c32 0b00000000000000000000 0b0000 0b00101000) = .ok .getStartKey := by decide
theorem test_decode_getKey :
    decode (c32 0b00000000000000000000 0b0100 0b00101001) = .ok (.getKey true false) ∧
    decode (c32 0b00000000000000000000 0b1000 0b00101001) = .ok (.getKey false true) := by decide
theorem test_decode_getKey40 : decode (c32 0b00000000000000000000 0b0100 0b00101010) = .ok (.getKey40 true) := by decide
theorem test_decode_getKey56 : decode (c32 0b00000000000000000000 0b0000 0b00101011) = .ok (.getKey56 false) := by decide
theorem test_decode_getKey128 : decode (c32 0b00000000000000000000 0b0100 0b00101100) = .ok (.getKey128 true) := by decide
theorem test_decode_challengeHash : decode (c32 0b00000000000000000000 0b0000 0b00110000) = .ok .challengeHash := by decide
theorem test_decode_genNtResp : decode (c32 0b00000000000000000000 0b0000 0b00110001) = .ok .genNtResp := by decide
theorem test_decode_genAuthResp : decode (c32 0b00000000000000000000 0b0000 0b00110010) = .ok .genAuthResp := by decide
theorem test_decode_getMasterKey : decode (c32 0b00000000000000000000 0b0000 0b00111000) = .ok .getMasterKey := by decide
theorem test_decode_getAsymStartKey :
    decode (c32 0b00000000000000000000 0b0001 0b00111001) = .ok (.getAsymStartKey true false false) ∧
    decode (c32 0b00000000000000000000 0b1010 0b00111001) = .ok (.getAsymStartKey false true true) := by decide
theorem test_decode_getSessionKeys64 :
    decode (c32 0b00000000000000000000 0b0000 0b00111010) = .ok .getSessionKeys64 := by decide
theorem test_decode_getSessionKeys128 :
    decode (c32 0b00000000000000000000 0b0000 0b00111011) = .ok .getSessionKeys128 := by decide

/-- The illegal words of 95_test_vectors.md section 2.5, and 0x82A of section 2.4, by the name of what is
wrong with each. -/
theorem test_decode_illegal :
    decode 0x00000000 = .error (.reservedOpcode 0x00) ∧ decode 0x00000002 = .error (.reservedOpcode 0x02) ∧
    decode 0x00000101 = .error (.disallowedFlag { send := true }) ∧
    decode 0x00001029 = .error (.reservedBits 0x00001) ∧
    decode 0x00000129 = .error (.disallowedFlag { send := true }) ∧
    decode 0x00000439 = .error (.disallowedFlag { ckp := true }) ∧
    decode 0x80000010 = .error (.reservedBits 0x80000) ∧
    decode 0x0000082A = .error (.disallowedFlag { k16 := true }) := by decide

/-- R87's example: `GET_ASYM_START_KEY.S.V.16` is 0x00000B39. -/
theorem test_encode_example : encode (.getAsymStartKey true true true) = 0x00000B39 := by decide

/-- A word the table has, by its number, and one it has not. -/
theorem test_decodeTableWord :
    decodeTableWord 32 0xC29 = some (.getKey true true) ∧ decodeTableWord 32 0x33 = none := by decide

/-! ## Well-formedness: an ill-formed written form for each of the four suffix checks of R87 -/

theorem test_wf_refuses_S : AsmCmd.wf ⟨.getKey, { send := true }⟩ = false := by decide
theorem test_wf_refuses_V : AsmCmd.wf ⟨.pexp, { server := true }⟩ = false := by decide
theorem test_wf_refuses_C : AsmCmd.wf ⟨.getAsymStartKey, { ckp := true }⟩ = false := by decide
theorem test_wf_refuses_16 : AsmCmd.wf ⟨.getKey128, { k16 := true }⟩ = false := by decide
theorem test_wf_accepts : AsmCmd.wf ⟨.getKey, { ckp := true, k16 := true }⟩ = true ∧
    AsmCmd.wf ⟨.getAsymStartKey, { send := true, server := true, k16 := true }⟩ = true := by decide
theorem test_assemble_refuses : assemble ⟨.getKey40, { k16 := true }⟩ = none ∧
    assemble ⟨.getKey40, { ckp := true }⟩ = some 0x0000042A := by decide

/-! ## Commands: the vectors of 95_test_vectors.md -/

/-- `ascii("MyPw")`, `NTENC("MyPw")`, `NTENC("clientPass")`, and the inputs PC, AC, NR of section 2.6. -/
def pwAscii : Bytes := hex 4 0x4d795077
def pwNt : Bytes := hex 8 0x4d00790050007700
def pwClient : Bytes := hex 20 0x63006c00690065006e0074005000610073007300
def pcIn : Bytes := hex 16 0x21402324255e262a28295f2b3a337c7e
def acIn : Bytes := hex 16 0x5b5d7c7d7b3f2f3e3c2c602132262628
def nrIn : Bytes := hex 24 0x82309ecd8d708b5ea08faa3981cd83544233114a3d85d6df
def chalIn : Bytes := hex 8 0x102db5df085d3041

/-- Section 2.1, a carry across every byte, and KIN_LEN 8 with byte 7 ignored. -/
theorem test_pexp : gives (cmdPexp (put .kin (hex 7 0x01010101010101) r0)) (hex 8 0x0181412111090503) = true ∧
    gives (cmdPexp (put .kin (hex 8 0x0123456789abcdff) r0)) (hex 8 0x0191d1ad794daf9b) = true := by decide

/-- Section 2.1: KIN_LEN 6 and KIN_LEN 17 end with LENGTH(8). -/
theorem test_pexp_length : statusOf (len .kin 6 r0) (cmdPexp (len .kin 6 r0)) = 0x00080206 ∧
    statusOf (len .kin 17 r0) (cmdPexp (len .kin 17 r0)) = 0x00080206 := by decide

/-- Section 2.2: PW is checked first, and P6: MD5 missing ends with PRIM(2) and FATAL. -/
theorem test_chapResp_errors :
    statusOf r0 (cmdChapResp ref (len .chal 257 (len .pw 513 r0))) = 0x00020206 ∧
    statusOf r0 (cmdChapResp (withPrims true false true true) (put .pw pwAscii r0)) = 0x0002030E := by decide

/-- Section 2.3: CH_LEN 7 with KIN_LEN 16, and CH_LEN 8 with KIN_LEN 15. -/
theorem test_v1Chresp_length :
    statusOf r0 (cmdV1Chresp ref (len .chal 7 (len .kin 16 r0))) = 0x00030206 ∧
    statusOf r0 (cmdV1Chresp ref (len .chal 8 (len .kin 15 r0))) = 0x00080206 := by decide

/-- Section 2.3: CHAL is checked before PW. -/
theorem test_ntChresp_order : statusOf r0 (cmdNtChresp ref (len .pw 513 r0)) = 0x00030206 := by decide

/-- Section 2.4: GET_KEY.C with CK_LEN 7, and GET_KEY.16 with KIN_LEN 8. -/
theorem test_getKey_length :
    statusOf r0 (cmdGetKey ref true false (len .kin 8 (len .curkey 7 r0))) = 0x00090206 ∧
    statusOf r0 (cmdGetKey ref false true (len .kin 8 r0)) = 0x00080206 := by decide

/-- Section 2.5: PRIM_AVAIL = MD5 alone reports MD4; lengths come before primitives, ACHAL first. -/
theorem test_genNtResp_errors :
    statusOf r0 (cmdGenNtResp (withPrims false true false false)
      (put .pchal pcIn (put .achal acIn r0))) = 0x0001030E ∧
    statusOf r0 (cmdGenNtResp (withPrims false false false false) r0) = 0x00060206 := by decide

/-- V-B1: 23, 15 and 15 bytes. -/
theorem test_genAuthResp_errors :
    statusOf r0 (cmdGenAuthResp ref (len .ntresp 23 (len .pchal 15 (len .achal 16 r0)))) = 0x00070206 ∧
    statusOf r0 (cmdGenAuthResp ref (len .ntresp 24 (len .pchal 15 (len .achal 16 r0)))) = 0x00050206 ∧
    statusOf r0 (cmdGenAuthResp ref (len .ntresp 24 (len .pchal 16 (len .achal 15 r0)))) = 0x00060206 := by
  decide

/-! ### Digests, a few theorems only: while it evaluates a digest, each keeps a thread of Lean busy -/

/-- chapResp: V-C1; lmHash: Section 2.3: case does not matter, and 16 characters are cut to 14; ntHash:
Section 2.3: V-L4, and the empty password; ntHashHash: Section 2.3; v1Chresp: Section 2.3: nine challenge
bytes, only the first eight used; lmChresp: V-L1; ntChresp: V-L3. -/
theorem test_vectors_chap_and_mschapv1 :
    gives (cmdChapResp ref
      { put .chal (hex 16 0xc49c74a7d3f8fa006ea57190f28ab34c) (put .pw pwAscii r0) with id := 1 })
      (hex 16 0x822c2bc654b1d0a8dbea8737fbbdde0e) = true ∧
    gives (cmdLmHash ref (put .pw (hex 4 0x6d797077) r0)) (hex 16 0x75ba30198e6d1975aad3b435b51404ee) = true ∧
    gives (cmdLmHash ref (put .pw (hex 16 0x6162636465666768696a6b6c6d6e6f70) r0))
      (hex 16 0xe0c510199cc66abd8c51ec214bebdea1) = true ∧
    gives (cmdNtHash ref (put .pw pwNt r0)) (hex 16 0xfc156af7edcd6c0edde3337d427f4eac) = true ∧
    gives (cmdNtHash ref r0) (hex 16 0x31d6cfe0d16ae931b73c59d7e0c089c0) = true ∧
    gives (cmdNtHashHash ref (put .pw pwNt r0)) (hex 16 0x874fb0693e18106a814481bc51cd7d37) = true ∧
    gives (cmdV1Chresp ref (put .kin (hex 16 0xfc156af7edcd6c0edde3337d427f4eac)
      (put .chal (hex 9 0x102db5df085d3041ee) r0)))
      (hex 24 0x4e9d3c8f9cfd385d5bf4d3246791956ca4c351ab409a3d61) = true ∧
    gives (cmdLmChresp ref (put .chal (hex 8 0xbd332a369b6d33e7) (put .pw pwAscii r0)))
      (hex 24 0x96b74d9422a1a2bd371bb5ecc55b0d9597a1eef31a29ee77) = true ∧
    gives (cmdNtChresp ref (put .chal chalIn (put .pw pwNt r0)))
      (hex 24 0x4e9d3c8f9cfd385d5bf4d3246791956ca4c351ab409a3d61) = true := by
  decide +kernel

/-- getStartKey: Section 2.4; getKey: Section 2.4: L = 8 of a 16-byte initial key, and L = 16 with a current
key; getKey40: Section 2.4: without and with a current key; getKey56: Section 2.4; getKey128: Section 2.4:
with a current key, and with one of 8 bytes only. -/
theorem test_vectors_mppe_v1 :
    gives (cmdGetStartKey ref (put .kin (hex 16 0x874fb0693e18106a814481bc51cd7d37) (put .chal chalIn r0)))
      (hex 16 0xcfd3610cd9208ec8134baeff555f76cb) = true ∧
    gives (cmdGetKey ref false false (put .kin (hex 16 0xcfd3610cd9208ec8134baeff555f76cb) r0))
      (hex 8 0x02161349b3ba8c31) = true ∧
    gives (cmdGetKey ref true true (put .curkey (hex 16 0xac7b7852cae9c75bde259132534ccf9c)
      (put .kin (hex 16 0xcfd3610cd9208ec8134baeff555f76cb) r0)))
      (hex 16 0x6fd5683578d404e7fba9e9be9cc6fb87) = true ∧
    gives (cmdGetKey40 ref false (put .pw pwAscii r0)) (hex 8 0xd1269e8d4d28fd69) = true ∧
    gives (cmdGetKey40 ref true (put .curkey (hex 8 0xd1269e8d4d28fd69) (put .pw pwAscii r0)))
      (hex 8 0xd1269e4368b1d1fd) = true ∧
    gives (cmdGetKey56 ref false (put .pw pwAscii r0)) (hex 8 0xd10fe88d4d28fd69) = true ∧
    gives (cmdGetKey128 ref true (put .curkey (hex 16 0xac7b7852cae9c75bde259132534ccf9c)
      (put .chal chalIn (put .pw pwNt r0)))) (hex 16 0x6fd5683578d404e7fba9e9be9cc6fb87) = true ∧
    statusOf r0 (cmdGetKey128 ref true (len .curkey 8 (put .chal chalIn (put .pw pwNt r0)))) = 0x00090206 := by
  decide +kernel

/-- challengeHash: Section 2.6: the two challenges one way and swapped; genNtResp: V-N1; genAuthResp: V-A1;
getMasterKey: Section 2.7; getAsymStartKey: Section 2.7: 0x839 and 0x239; getSessionKeys64: Section 2.7;
getSessionKeys128: V-S1. -/
theorem test_vectors_mschapv2_and_mppe_v2 :
    gives (cmdChallengeHash ref (put .pchal pcIn (put .achal acIn (put .user (hex 4 0x55736572) r0))))
      (hex 8 0xd02e4386bce91226) = true ∧
    gives (cmdChallengeHash ref (put .pchal acIn (put .achal pcIn (put .user (hex 4 0x55736572) r0))))
      (hex 8 0xcbab070439b60411) = true ∧
    gives (cmdGenNtResp ref (put .pchal pcIn (put .achal acIn (put .user (hex 4 0x55736572) (put .pw pwClient r0)))))
      nrIn = true ∧
    gives (cmdGenAuthResp ref (put .ntresp nrIn (put .pchal pcIn (put .achal acIn
      (put .user (hex 4 0x55736572) (put .pw pwClient r0))))))
      (hex 42 0x533d34303741353538393131354644304436323039463531304645394330343536363933324344413536) = true ∧
    gives (cmdGetMasterKey ref (put .kin (hex 16 0x41c00c584bd2d91c4017a2a12fa59f3f) (put .ntresp nrIn r0)))
      (hex 16 0xfdece3717a8c838cb388e527ae3cdd31) = true ∧
    gives (cmdGetAsymStartKey ref false false true (put .kin (hex 16 0xfdece3717a8c838cb388e527ae3cdd31) r0))
      (hex 16 0x8b7cdc149b993a1ba118cb153f56dccb) = true ∧
    gives (cmdGetAsymStartKey ref false true false (put .kin (hex 16 0xfdece3717a8c838cb388e527ae3cdd31) r0))
      (hex 8 0xd5f0e9521e3ea958) = true ∧
    gives (cmdGetSessionKeys64 ref (put .pw pwClient (put .ntresp nrIn r0)))
      (hex 16 0x8b7cdc149b993a1bd5f0e9521e3ea958) = true ∧
    gives (cmdGetSessionKeys128 ref (put .pw pwClient (put .ntresp nrIn r0)))
      (hex 32 0x8b7cdc149b993a1ba118cb153f56dccbd5f0e9521e3ea9589645e86051c82226) = true := by
  decide +kernel

/-! ## Issue and completion -/

/-- While pending, STATUS reads 0x00000001, plus 0x10 with BWE and 0x8 with FATAL (95_test_vectors.md
section 2.5); an issue with FATAL = 1 then ends with 0x0000040E. -/
theorem test_status_pending :
    (r0.issue 1).statusWord = 0x00000001 ∧ (Block.issue { r0 with bwe := true, fatal := true } 1).statusWord = 0x00000019 ∧
    statusOf { r0 with fatal := true } (.error .illegal) = 0x0000040E := by decide

/-- P5: opcode 0 is reserved, and a success reads DONE alone. -/
theorem test_status_done : statusOf r0 (.error .illegal) = 0x00000106 ∧ statusOf r0 (.ok (hex 8 1)) = 0x00000002 := by
  decide

/-- A result of 8 bytes: OUT, OUT_LEN and the zero tail, over an OUT that held other bytes before. -/
theorem test_result : let b := (Block.issue { r0 with mem := [(0x187, 5), (0x188, 6)] } 1).completeOk (hex 8 0x0191d1ad794daf9b)
    b.outByte 0 = 0x01 ∧ b.outByte 7 = 0x9b ∧ b.outByte 8 = 0 ∧ b.outLen = 8 := by decide

/-! ## Host access: the table of 95_test_vectors.md section 2.8 -/

theorem test_read_identity : r0.readAt ref 0x000 = 0x50414843 ∧ r0.readAt ref 0x004 = 0x00000001 ∧
    r0.readAt ref 0x008 = 0x01000200 ∧ r0.readAt ref 0x00C = 0x000F0100 ∧
    r0.readAt (withPrims true false true true) 0x00C = 0x000D0100 := by decide
theorem test_write_ctrl_even : (len .pw 3 r0).writeAt 0x010 0xFFFFFFFE = len .pw 3 r0 := by decide
theorem test_write_id : (r0.writeAt 0x020 0x12345678).readAt ref 0x020 = 0x00000078 := by decide
theorem test_write_len : (r0.writeAt 0x024 0xFFFF0201).readAt ref 0x024 = 0x00000201 := by decide
theorem test_write_ignored : (r0.writeAt 0x044 0xFFFFFFFF).readAt ref 0x044 = 0 ∧ (r0.writeAt 0x180 0xFFFFFFFF).readAt ref 0x180 = 0 := by
  decide
theorem test_write_lanes : (r0.writeAt 0x200 0xA7749CC4).bytes .chal 4 = [0xC4, 0x9C, 0x74, 0xA7] := by decide
theorem test_bad_width : (r0.access ref ⟨0x1000, 16, .read⟩).1 = .busError ∧ (r0.access ref ⟨0x1002, 32, .read⟩).1 = .busError ∧
    (r0.access ref ⟨0x0FFC, 32, .read⟩).1 = .notSelected ∧ (r0.access ref ⟨0x2000, 8, .read⟩).1 = .notSelected := by decide
theorem test_write_busy : ((r0.issue 1).writeAt 0x140 1) = { r0.issue 1 with bwe := true } := by decide
theorem test_clear_bwe : Block.writeAt { r0 with bwe := true } 0x014 0x10 = r0 ∧
    (Block.writeAt { r0.issue 1 with bwe := true } 0x014 0x10).bwe = true := by decide

/-- R88: the `LOADB` lines of program P5, three bytes and one length. -/
theorem test_loadb : loadb .kin (hex 7 0x0123456789abcd) =
    [.w32 0x140 0x67452301, .w32 0x144 0x00CDAB89, .w32 0x03C 7] := by decide

/-- R11: the host's encodings of "MyPw". -/
theorem test_encodings : userenc ['M', 'y', 'P', 'w'] = some pwAscii ∧ ntenc ['M', 'y', 'P', 'w'] = some pwNt ∧
    lmenc ['M', 'y', 'P', 'w'] = some (hex 4 0x4d595057) := by decide

/-- Writing the byte an unlisted offset reads as removes the entry. -/
theorem test_memory_canonical : Memory.writeByte [(1, 7), (2, 9)] 1 0 = [(2, 9)] ∧
    Memory.writeByte [(1, 7), (3, 9)] 2 8 = [(1, 7), (2, 8), (3, 9)] := by decide

/-- The step of an idle machine and of one with a pending word that is no command. -/
theorem test_step_idle : step State.reset = .next State.reset := rfl
theorem test_step_illegal : step (State.reset.withFetchWord 32 0x33) =
    .next { blk := (Block.reset.issue 0x33).completeError .illegal, port := [], reply := none } := rfl
/-- P5: V1_CHRESP right after reset ends with LENGTH of CHAL, and PEXP on seven bytes with its result. -/
theorem test_step_length : step (State.reset.withFetchWord 32 0x23) =
    .next { blk := (Block.reset.issue 0x23).completeError (.length .chal), port := [], reply := none } := rfl
theorem test_step_pexp : step (State.withFetchWord { State.reset with blk := put .kin (hex 7 0x0123456789abcd) r0 } 32 1) =
    .next { blk := ((put .kin (hex 7 0x0123456789abcd) r0).issue 1).completeOk (hex 8 0x0191d1ad794daf9b)
            port := [], reply := none } := rfl

end Sys2Proof.Tests
end

