-- ==== Sys2Proof/Tests/Witness.lean ====
section
/-! SUPPORT. For every obligation with hypotheses, a concrete state and operands that meet all of them
together; where it has several clauses over one input, one for each clause at a boundary value. -/

namespace Sys2Proof.Tests

open Sys2Proof Sys2Proof.Machine

/-- A block with every operand length at its mandated value, or at the capacity where none is. -/
def fullBlock : Block :=
  len .pw 512 (len .chal 256 (len .user 256 (len .pchal 16 (len .achal 16 (len .ntresp 24
    (len .kin 16 (len .curkey 16 Block.reset)))))))

/-- A block with the shortest legal lengths: variable operands empty, CHAL of 8 bytes. -/
def shortBlock : Block := len .chal 8 (len .pchal 16 (len .achal 16 (len .ntresp 24 (len .kin 16 Block.reset))))

theorem pendingState_pending (w : Word) (b : Block) : (pendingState w b).blk.pending := issue_pending b w

/-! ## Encoding and the step -/

theorem witness_UnlistedWordEndsIllegal : ∃ s : State, s.blk.pending ∧ s.blk.fatal = false ∧ s.port = [] ∧
    ∀ i, encode i ≠ s.blk.cmd := by
  refine ⟨pendingState 0x00001029 r0, pendingState_pending _ _, rfl, rfl, fun i => ?_⟩
  show encode i ≠ 0x00001029
  cases i
  case getKey a b => revert a b; decide
  case getKey40 a => revert a; decide
  case getKey56 a => revert a; decide
  case getKey128 a => revert a; decide
  case getAsymStartKey a b c => revert a b c; decide
  all_goals decide

/-- Both clauses: nothing left at the port, and the sequencer's turn with an access after it. -/
theorem witness_StepRunsTheDecodedCommand :
    (∃ s : State, s.blk.busy = true ∧ decode s.blk.cmd = .ok (.getKey true true) ∧ s.port = []) ∧
    (∃ s : State, ∃ rest, s.blk.busy = true ∧ decode s.blk.cmd = .ok .genAuthResp ∧ s.port = .sequencer :: rest) :=
  ⟨⟨pendingState 0xC29 r0, rfl, rfl, rfl⟩,
    ⟨{ pendingState 0x32 r0 with port := [.sequencer, .hardReset] }, [.hardReset], rfl, rfl, rfl⟩⟩

theorem witness_FatalBlocksEveryWord : ∃ s : State, s.blk.pending ∧ s.blk.fatal = true ∧ s.port = [] :=
  ⟨pendingState 0x01 { r0 with fatal := true }, pendingState_pending _ _, rfl, rfl⟩

/-- Both ways FATAL is cleared. -/
theorem witness_FatalClearedOnlyByReset :
    (∃ s t : State, step s = .next t ∧ s.blk.fatal = true ∧ t.blk.fatal = false ∧ s.port = [.hardReset]) ∧
    (∃ s t : State, step s = .next t ∧ s.blk.fatal = true ∧ t.blk.fatal = false ∧
      s.port = [.access ⟨Config.hw.base + 0x010, 32, .write 1⟩]) :=
  ⟨⟨{ blk := { r0 with fatal := true }, port := [.hardReset], reply := none }, _, rfl, rfl, rfl, rfl⟩,
    ⟨accessState { r0 with fatal := true } 0x010 (.write 1), _,
      step_write _ _ _ _ (by decide) (by decide) rfl, rfl, rfl, rfl⟩⟩

/-! ## How commands end -/

theorem witness_EveryCommandEndsOneWay : ∃ s : State, s.blk.pending ∧ s.port = [] :=
  ⟨pendingState 0x3B fullBlock, pendingState_pending _ _, rfl⟩

theorem witness_CommandFrame : ∃ t, exec .lmHash (pendingState 0x20 fullBlock) = .next t := ⟨_, rfl⟩

/-- A completion, and a host read, which are the steps the statement is about. -/
theorem witness_OnlyHostOrResetChangesOperands :
    (∃ s t : State, step s = .next t ∧ (∀ rest, s.port ≠ .hardReset :: rest) ∧
      (∀ a v rest, s.port = .access a :: rest → a.op ≠ .write v) ∧ s.blk.busy = true) ∧
    (∃ s t : State, step s = .next t ∧ (∀ rest, s.port ≠ .hardReset :: rest) ∧
      (∀ a v rest, s.port = .access a :: rest → a.op ≠ .write v) ∧ s.port ≠ []) := by
  refine ⟨⟨pendingState 0x33 r0, _, rfl, by simp [pendingState], by simp [pendingState], rfl⟩,
    ⟨accessState r0 0x180 .read, _, step_read _ _ _ (by decide) (by decide) rfl, by simp [accessState], ?_,
      by simp [accessState]⟩⟩
  rintro a v rest h
  simp only [accessState, List.cons.injEq, PortEvent.access.injEq] at h
  obtain ⟨rfl, -⟩ := h
  simp

/-- One command for each of the eight operands that can be the first to fail, the length just past one
of its bounds: above the capacity for a variable operand, one short of the mandated length else. -/
theorem witness_FirstBadOperandEndsLength :
    ∀ x ∈ ([(.lmHash, len .pw 513 fullBlock, [], (.pw, 0), []),
        (.v1Chresp, len .chal 7 fullBlock, [], (.chal, 8), [(.kin, 16)]),
        (.challengeHash, len .user 257 fullBlock, [(.pchal, 16), (.achal, 16)], (.user, 0), []),
        (.challengeHash, len .pchal 15 fullBlock, [], (.pchal, 16), [(.achal, 16), (.user, 0)]),
        (.genNtResp, len .achal 15 fullBlock, [], (.achal, 16), [(.pchal, 16), (.user, 0), (.pw, 0)]),
        (.getMasterKey, len .ntresp 25 fullBlock, [(.kin, 16)], (.ntresp, 24), []),
        (.pexp, len .kin 6 fullBlock, [], (.kin, 7), []),
        (.getKey true false, len .curkey 17 fullBlock, [(.kin, 8)], (.curkey, 8), [])] :
      List (Instr × Block × List (Buf × Nat) × (Buf × Nat) × List (Buf × Nat))),
    let s := pendingState (encode x.1) x.2.1
    s.blk.pending ∧ s.blk.fatal = false ∧ operandRow x.1 = x.2.2.1 ++ x.2.2.2.1 :: x.2.2.2.2 ∧
      (∀ o ∈ x.2.2.1, s.blk.passes o) ∧ ¬ s.blk.passes x.2.2.2.1 := by
  intro x hx
  refine ⟨pendingState_pending _ _, ?_⟩
  simp only [Block.passes]
  revert x
  decide

/-- Every command's operands pass on the full block. -/
theorem witness_MissingPrimitiveEndsPrim : ∀ i : Instr, (pendingState (encode i) fullBlock).blk.pending ∧
    (pendingState (encode i) fullBlock).blk.fatal = false ∧
    ∀ o ∈ operandRow i, (pendingState (encode i) fullBlock).blk.passes o := by
  intro i
  refine ⟨pendingState_pending _ _, rfl, ?_⟩
  simp only [Block.passes]
  cases i
  case getKey a b => revert a b; decide
  case getKey40 a => revert a; decide
  case getKey56 a => revert a; decide
  case getKey128 a => revert a; decide
  case getAsymStartKey a b c => revert a b c; decide
  all_goals
    simp only [operandRow]
    decide

/-! ## What each command computes: the longest and the shortest legal operands -/

/-- The first `n` bytes of a buffer as a byte string of known length. -/
def vec (b : Block) (buf : Buf) (n : Nat) : BytesN n := ⟨b.bytes buf n, bytes_length b buf n⟩

theorem witness_PexpExpandsTheKey : ∀ n ∈ [7, 16], ∃ s : State, ∃ k : BytesN 7, s.blk.pending ∧ s.blk.fatal = false ∧
    7 ≤ s.blk.kinLen.toNat ∧ s.blk.kinLen.toNat ≤ 16 ∧ s.blk.kinLen.toNat = n ∧ k.toList = s.blk.bytes .kin 7 := by
  intro n hn
  refine ⟨pendingState 0x01 (len .kin n r0), vec _ .kin 7, pendingState_pending _ _, rfl, ?_, ?_, ?_, rfl⟩ <;>
    revert n <;> decide

/-- The operand conditions of the result statements, together, at a state of a full and of a short block. -/
theorem witness_operands : ∀ b ∈ [fullBlock, shortBlock], ∃ s : State, s.blk.pending ∧ s.blk.fatal = false ∧
    s.blk.pwLen.toNat ≤ 512 ∧ 8 ≤ s.blk.chLen.toNat ∧ s.blk.chLen.toNat ≤ 256 ∧ s.blk.userLen.toNat ≤ 256 ∧
    s.blk.pcLen.toNat = 16 ∧ s.blk.acLen.toNat = 16 ∧ s.blk.nrLen.toNat = 24 ∧ s.blk.kinLen.toNat = 16 ∧
    s.blk.kinLen.toNat ≤ 16 := by
  intro b hb
  refine ⟨pendingState 0x10 b, pendingState_pending _ _, ?_⟩
  revert b
  decide

theorem witness_ChapRespHashesIdPasswordChallenge : ∃ s : State, s.blk.pending ∧ s.blk.fatal = false ∧
    s.blk.pwLen.toNat ≤ 512 ∧ s.blk.chLen.toNat ≤ 256 :=
  ⟨pendingState 0x10 fullBlock, pendingState_pending _ _, by decide⟩

theorem witness_LmHashComputesLmHash : ∃ s : State, s.blk.pending ∧ s.blk.fatal = false ∧ s.blk.pwLen.toNat ≤ 512 :=
  ⟨pendingState 0x20 fullBlock, pendingState_pending _ _, by decide⟩

theorem witness_NtHashAndHashHash : ∃ s : State, s.blk.pending ∧ s.blk.fatal = false ∧ s.blk.pwLen.toNat ≤ 512 :=
  ⟨pendingState 0x21 shortBlock, pendingState_pending _ _, by decide⟩

theorem witness_V1ChrespEncryptsThreeTimes : ∃ s : State, ∃ (ch : BytesN 8) (h : BytesN 16), s.blk.pending ∧
    s.blk.fatal = false ∧ 8 ≤ s.blk.chLen.toNat ∧ s.blk.chLen.toNat ≤ 256 ∧ s.blk.kinLen.toNat = 16 ∧
    ch.toList = s.blk.bytes .chal 8 ∧ h.toList = s.blk.bytes .kin 16 :=
  ⟨pendingState 0x23 shortBlock, vec _ .chal 8, vec _ .kin 16, pendingState_pending _ _,
    by decide, by decide, by decide, by decide, rfl, rfl⟩

theorem witness_LmChrespUsesLmHash : ∃ s : State, ∃ ch : BytesN 8, s.blk.pending ∧ s.blk.fatal = false ∧
    8 ≤ s.blk.chLen.toNat ∧ s.blk.chLen.toNat ≤ 256 ∧ s.blk.pwLen.toNat ≤ 512 ∧ ch.toList = s.blk.bytes .chal 8 :=
  ⟨pendingState 0x24 shortBlock, vec _ .chal 8, pendingState_pending _ _,
    by decide, by decide, by decide, by decide, rfl⟩

theorem witness_NtChrespUsesNtHash : ∃ s : State, ∃ ch : BytesN 8, s.blk.pending ∧ s.blk.fatal = false ∧
    8 ≤ s.blk.chLen.toNat ∧ s.blk.chLen.toNat ≤ 256 ∧ s.blk.pwLen.toNat ≤ 512 ∧ ch.toList = s.blk.bytes .chal 8 :=
  ⟨pendingState 0x25 fullBlock, vec _ .chal 8, pendingState_pending _ _,
    by decide, by decide, by decide, by decide, rfl⟩

theorem witness_GetStartKeyHashesTwice : ∃ s : State, s.blk.pending ∧ s.blk.fatal = false ∧
    8 ≤ s.blk.chLen.toNat ∧ s.blk.chLen.toNat ≤ 256 ∧ s.blk.kinLen.toNat = 16 :=
  ⟨pendingState 0x28 shortBlock, pendingState_pending _ _, by decide⟩

/-- All four forms, KIN_LEN and CK_LEN at the mandated length. -/
theorem witness_GetKeyDerivesKey : ∀ ckp k16 : Bool, ∃ (s : State) (L : Nat), L = (if k16 then 16 else 8) ∧
    s.blk.pending ∧ s.blk.fatal = false ∧ L ≤ s.blk.kinLen.toNat ∧ s.blk.kinLen.toNat ≤ 16 ∧
    (ckp = true → L ≤ s.blk.ckLen.toNat ∧ s.blk.ckLen.toNat ≤ 16) := by
  intro ckp k16
  refine ⟨pendingState (encode (.getKey ckp k16)) (len .kin (if k16 then 16 else 8) (len .curkey (if k16 then 16 else 8) r0)),
    _, rfl, pendingState_pending _ _, rfl, ?_⟩
  revert ckp k16
  decide

theorem witness_WeakKeysFromLmHash : ∀ ckp : Bool, ∃ s : State, s.blk.pending ∧ s.blk.fatal = false ∧
    s.blk.pwLen.toNat ≤ 512 ∧ (ckp = true → 8 ≤ s.blk.ckLen.toNat ∧ s.blk.ckLen.toNat ≤ 16) := by
  intro ckp
  exact ⟨pendingState 0x2A (len .curkey 8 r0), pendingState_pending _ _, by revert ckp; decide⟩

theorem witness_GetKey128FromHashHash : ∀ ckp : Bool, ∃ s : State, s.blk.pending ∧ s.blk.fatal = false ∧
    8 ≤ s.blk.chLen.toNat ∧ s.blk.chLen.toNat ≤ 256 ∧ s.blk.pwLen.toNat ≤ 512 ∧
    (ckp = true → s.blk.ckLen.toNat = 16) := by
  intro ckp
  exact ⟨pendingState 0x2C fullBlock, pendingState_pending _ _, by revert ckp; decide⟩

theorem witness_ChallengeHashPeerFirst : ∃ s : State, s.blk.pending ∧ s.blk.fatal = false ∧
    s.blk.pcLen.toNat = 16 ∧ s.blk.acLen.toNat = 16 ∧ s.blk.userLen.toNat ≤ 256 :=
  ⟨pendingState 0x30 fullBlock, pendingState_pending _ _, by decide⟩

theorem witness_GenNtRespComposes : ∃ s : State, s.blk.pending ∧ s.blk.fatal = false ∧
    s.blk.pcLen.toNat = 16 ∧ s.blk.acLen.toNat = 16 ∧ s.blk.userLen.toNat ≤ 256 ∧ s.blk.pwLen.toNat ≤ 512 :=
  ⟨pendingState 0x31 shortBlock, pendingState_pending _ _, by decide⟩

theorem witness_GenAuthRespIsText : ∃ s : State, s.blk.pending ∧ s.blk.fatal = false ∧ s.blk.pwLen.toNat ≤ 512 ∧
    s.blk.nrLen.toNat = 24 ∧ s.blk.pcLen.toNat = 16 ∧ s.blk.acLen.toNat = 16 ∧ s.blk.userLen.toNat ≤ 256 :=
  ⟨pendingState 0x32 fullBlock, pendingState_pending _ _, by decide⟩

theorem witness_GetMasterKeyHashes : ∃ s : State, s.blk.pending ∧ s.blk.fatal = false ∧
    s.blk.kinLen.toNat = 16 ∧ s.blk.nrLen.toNat = 24 :=
  ⟨pendingState 0x38 shortBlock, pendingState_pending _ _, by decide⟩

theorem witness_GetAsymStartKeySelectsMagic : ∃ s : State, s.blk.pending ∧ s.blk.fatal = false ∧
    s.blk.kinLen.toNat = 16 :=
  ⟨pendingState 0x39 shortBlock, pendingState_pending _ _, by decide⟩

theorem witness_SessionKeysSendThenReceive : ∃ s : State, s.blk.pending ∧ s.blk.fatal = false ∧
    s.blk.pwLen.toNat ≤ 512 ∧ s.blk.nrLen.toNat = 24 :=
  ⟨pendingState 0x3A fullBlock, pendingState_pending _ _, by decide⟩

/-! ## Relations between commands -/

theorem witness_WeakKeysAgreeFromByteThree : ∀ ckp : Bool, ∃ s t u : State, s.blk.pending ∧
    exec (.getKey40 ckp) s = .next t ∧ exec (.getKey56 ckp) s = .next u := fun _ =>
  ⟨pendingState 0x2A fullBlock, _, _, pendingState_pending _ _, rfl, rfl⟩

theorem witness_ShortSessionKeysArePrefixes : ∃ s t u : State, s.blk.pending ∧
    exec .getSessionKeys64 s = .next t ∧ exec .getSessionKeys128 s = .next u :=
  ⟨pendingState 0x3A fullBlock, _, _, pendingState_pending _ _, rfl, rfl⟩

/-- Both ways the lengths may be related: equal (the passwords "a" and "A"), and both 14 or more. -/
theorem witness_LmHashIgnoresCaseAndTail :
    ∀ p ∈ [(put .pw [0x61] r0, put .pw [0x41] r0), (len .pw 14 r0, len .pw 512 r0)], ∃ s1 s2 t1 t2 : State,
      s1.blk.pending ∧ s2.blk.pending ∧ s1.blk.fatal = s2.blk.fatal ∧ s1.blk.pwLen.toNat ≤ 512 ∧ s2.blk.pwLen.toNat ≤ 512 ∧
      (s1.blk.pwLen = s2.blk.pwLen ∨ 14 ≤ s1.blk.pwLen.toNat ∧ 14 ≤ s2.blk.pwLen.toNat) ∧
      (∀ k, k < 14 → k < s1.blk.pwLen.toNat → s1.blk.bufByte .pw k = s2.blk.bufByte .pw k ∨
        (0x61 ≤ (s1.blk.bufByte .pw k).toNat ∧ (s1.blk.bufByte .pw k).toNat ≤ 0x7A ∧
          s2.blk.bufByte .pw k = s1.blk.bufByte .pw k - 0x20)) ∧
      exec .lmHash s1 = .next t1 ∧ exec .lmHash s2 = .next t2 := by
  intro p hp
  refine ⟨pendingState 0x20 p.1, pendingState 0x20 p.2, _, _, pendingState_pending _ _, pendingState_pending _ _, ?_, ?_, ?_,
    ?_, ?_, rfl, rfl⟩ <;> revert p <;> decide

/-- A second state whose PW holds the first 16 bytes of the first completion's OUT. -/
theorem witness_NtHashOfNtHashIsHashHash : ∃ s1 s2 t1 t2 u : State, s1.blk.pending ∧ s2.blk.pending ∧
    s1.blk.fatal = false ∧ s2.blk.fatal = false ∧ s1.blk.pwLen.toNat ≤ 512 ∧ s2.blk.pwLen.toNat = 16 ∧
    exec .ntHash s1 = .next t1 ∧ (∀ k, k < 16 → s2.blk.bufByte .pw k = t1.blk.outByte k) ∧
    exec .ntHash s2 = .next t2 ∧ exec .ntHashHash s1 = .next u := by
  obtain ⟨t, ht⟩ : ∃ t, exec .ntHash (pendingState 0x21 r0) = .next t := ⟨_, rfl⟩
  refine ⟨pendingState 0x21 r0, pendingState 0x21 (put .pw ((List.range 16).map t.blk.outByte) r0), t, _, _,
    pendingState_pending _ _, pendingState_pending _ _, rfl, rfl, by decide, ?_, ht, ?_, rfl, rfl⟩
  · show (BitVec.ofNat 16 _).toNat = 16
    simp
  · intro k hk
    show ((Memory.store [] 0x800 ((List.range 16).map t.blk.outByte)).clear outOffset outCap).readByte (0x800 + k) = _
    rw [readByte_clear, if_neg (by unfold outOffset outCap; omega), readByte_store_inside _ _ _ _ (by simpa using hk)]
    simp

/-- Two states that differ in OUT, in BWE and in bytes past the operands' lengths. -/
theorem witness_CommandReadsOnlyItsOperands : ∃ s1 s2 : State, s1.blk.pending ∧ s2.blk.pending ∧
    s1.blk.fatal = s2.blk.fatal ∧ s1.blk.id = s2.blk.id ∧ (∀ buf, s1.blk.lenOf buf = s2.blk.lenOf buf) ∧
    (∀ buf k, k < (s1.blk.lenOf buf).toNat → k < bufCap buf → s1.blk.bufByte buf k = s2.blk.bufByte buf k) ∧
    s1.blk ≠ s2.blk := by
  refine ⟨pendingState 0x01 (len .kin 7 r0), pendingState 0x01 { len .kin 7 r0 with bwe := true, mem := [(0x147, 9)] },
    pendingState_pending _ _, pendingState_pending _ _, rfl, rfl, fun buf => by cases buf <;> rfl, ?_, by decide⟩
  intro buf k hk _
  cases buf <;> first | exact absurd hk (Nat.not_lt_zero k) | skip
  have hk : k < 7 := hk
  revert k
  decide

/-! ## Host accesses -/

theorem witness_CmdWriteIssues : ∃ s : State, ∃ rest, s.blk.busy = false ∧
    s.port = .access ⟨Config.hw.base + 0x018, 32, .write 0x29⟩ :: rest :=
  ⟨accessState fullBlock 0x018 (.write 0x29), [], rfl, rfl⟩

/-- The three clauses: dropped writes at the ends of the window, a read of OUT, and the two ways BWE is
cleared by a write. -/
theorem witness_WritesWhileBusyAreDropped :
    (∀ off ∈ [0x000, 0x00C, 0x014, 0xFFC], ∃ s : State, s.blk.busy = true ∧ off < 4096 ∧ off % 4 = 0 ∧ off ≠ 0x010 ∧
      s.port = [.access ⟨Config.hw.base + off, 32, .write 1⟩]) ∧
    (∃ s : State, s.blk.busy = true ∧ s.port = [.access ⟨Config.hw.base + 0x180, 32, .read⟩]) ∧
    (∃ s t : State, step s = .next t ∧ s.blk.bwe = true ∧ t.blk.bwe = false ∧
      s.port = [.access ⟨Config.hw.base + 0x014, 32, .write 0x10⟩]) ∧
    (∃ s t : State, step s = .next t ∧ s.blk.bwe = true ∧ t.blk.bwe = false ∧ s.blk.busy = true ∧
      s.port = [.access ⟨Config.hw.base + 0x010, 32, .write 1⟩]) ∧
    (∃ s t : State, step s = .next t ∧ s.blk.bwe = true ∧ t.blk.bwe = false ∧ s.port = [.hardReset]) := by
  refine ⟨fun off h => ⟨accessState (r0.issue 1) off (.write 1), rfl, ?_, ?_, ?_, rfl⟩,
    ⟨accessState (r0.issue 1) 0x180 .read, rfl, rfl⟩,
    ⟨accessState { r0 with bwe := true } 0x014 (.write 0x10), _, step_write _ _ _ _ (by decide) (by decide) rfl,
      rfl, by decide, rfl⟩,
    ⟨accessState { r0.issue 1 with bwe := true } 0x010 (.write 1), _, step_write _ _ _ _ (by decide) (by decide) rfl,
      rfl, by decide, rfl, rfl⟩,
    ⟨{ blk := { r0 with bwe := true }, port := [.hardReset], reply := none }, _, rfl, rfl, rfl, rfl⟩⟩ <;>
    revert off <;> decide

/-- Bit 0 set on a busy block, and every bit but bit 0 set. -/
theorem witness_CtrlWriteResets : ∀ v ∈ [(1 : Word), 0xFFFFFFFE], ∃ s : State,
    s.port = [.access ⟨Config.hw.base + 0x010, 32, .write v⟩] := fun v _ =>
  ⟨accessState (r0.issue 1) 0x010 (.write v), rfl⟩

theorem witness_HardResetClearsEverything : ∃ s : State, s.blk.busy = true ∧ s.port = [.hardReset] :=
  ⟨{ blk := fullBlock.issue 1, port := [.hardReset], reply := none }, rfl, rfl⟩

/-- A width of 16 at an aligned offset, a width of 32 at the last byte of the window, both directions. -/
theorem witness_BadAccessIsBusError : ∀ x ∈ [(0x000, 16, BusOp.read), (0xFFF, 32, .write 1)], ∃ s : State,
    x.1 < 4096 ∧ (x.2.1 ≠ 32 ∨ x.1 % 4 ≠ 0) ∧ s.port = [.access ⟨Config.hw.base + x.1, x.2.1, x.2.2⟩] := by
  intro x hx
  refine ⟨{ blk := r0, port := [.access ⟨Config.hw.base + x.1, x.2.1, x.2.2⟩], reply := none }, ?_, ?_, rfl⟩ <;>
    revert x <;> decide

/-- Both clauses: the first and the last byte of the window, and the first byte after it. -/
theorem witness_AddressDecode :
    (∃ a, a = Config.hw.base ∧ Config.hw.base ≤ a ∧ a ≤ Config.hw.base + 0xFFF) ∧
    (∃ a, a = Config.hw.base + 0xFFF ∧ Config.hw.base ≤ a ∧ a ≤ Config.hw.base + 0xFFF) ∧
    (∃ (s : State) (a : Access), (a.addr < Config.hw.base ∨ Config.hw.base + 0xFFF < a.addr) ∧ s.port = [.access a]) :=
  ⟨⟨_, rfl, Nat.le_refl _, Nat.le_add_right _ _⟩, ⟨_, rfl, Nat.le_add_right _ _, Nat.le_refl _⟩,
    ⟨accessState r0 0x1000 .read, ⟨Config.hw.base + 0x1000, 32, .read⟩,
      .inr (Nat.add_lt_add_left (by decide) _), rfl⟩⟩

/-- Every register, and the first and last word of every range of the read table, are offsets the
statement speaks of; a pending command among the states. -/
theorem witness_ReadTable :
    ∀ off ∈ [0x000, 0x004, 0x008, 0x00C, 0x010, 0x014, 0x018, 0x01C] ++ [0x020, 0x024, 0x028, 0x02C, 0x030, 0x034, 0x038, 0x03C] ++
      [0x040, 0x044, 0x0FC, 0x100, 0x134, 0x138, 0x13C, 0x140] ++ [0x15C, 0x160, 0x17C, 0x180, 0x1AC, 0x1B0, 0x1FC, 0x200] ++
      [0x2FC, 0x300, 0x3FC, 0x400, 0x4FC, 0x500, 0x7FC, 0x800] ++ [0x9FC, 0xA00, 0xFFC],
    ∃ s : State, off < 4096 ∧ off % 4 = 0 ∧ s.port = [.access ⟨Config.hw.base + off, 32, .read⟩] ∧ s.blk.pending := by
  intro off h
  refine ⟨accessState (fullBlock.issue 1) off .read, ?_, ?_, rfl, issue_pending _ _⟩ <;> revert off <;> decide

/-- The same for the write table. -/
theorem witness_WriteTable :
    ∀ off ∈ [0x000, 0x00C, 0x014, 0x01C, 0x020, 0x024, 0x028, 0x02C] ++ [0x030, 0x034, 0x038, 0x03C, 0x040, 0x044, 0x0FC, 0x100] ++
      [0x134, 0x138, 0x13C, 0x140, 0x15C, 0x160, 0x1FC, 0x200] ++ [0x2FC, 0x300, 0x3FC, 0x400, 0x4FC, 0x500, 0x7FC, 0x800] ++
      [0x9FC, 0xA00, 0xFFC],
    ∃ s : State, s.blk.busy = false ∧ off < 4096 ∧ off % 4 = 0 ∧
      s.port = [.access ⟨Config.hw.base + off, 32, .write 0x12345678⟩] := by
  intro off h
  refine ⟨accessState fullBlock off (.write 0x12345678), rfl, ?_, ?_, rfl⟩ <;> revert off <;> decide

/-- The last word of every buffer. -/
theorem witness_ReadReturnsLastWrite : ∀ buf : Buf, ∃ (s : State) (j : Nat), s.blk.busy = false ∧ 4 * j < bufCap buf ∧
    4 * (j + 1) = bufCap buf ∧
    s.port = [.access ⟨Config.hw.base + (bufOffset buf + 4 * j), 32, .write 7⟩,
      .access ⟨Config.hw.base + (bufOffset buf + 4 * j), 32, .read⟩] := by
  intro buf
  refine ⟨{ blk := r0, port := [.access ⟨Config.hw.base + (bufOffset buf + 4 * (bufCap buf / 4 - 1)), 32, .write 7⟩,
      .access ⟨Config.hw.base + (bufOffset buf + 4 * (bufCap buf / 4 - 1)), 32, .read⟩], reply := none },
    bufCap buf / 4 - 1, rfl, ?_, ?_, rfl⟩ <;> cases buf <;> decide

/-- A host write elsewhere, on a block that holds a finished record. -/
theorem witness_FinishedRecordStays : ∃ s t : State, s.blk.busy = false ∧ step s = .next t ∧
    (∀ rest, s.port ≠ .hardReset :: rest) ∧
    (∀ v rest, s.port ≠ .access ⟨Config.hw.base + 0x018, 32, .write v⟩ :: rest) ∧
    (∀ v rest, s.port = .access ⟨Config.hw.base + 0x010, 32, .write v⟩ :: rest → v.getLsbD 0 = false) ∧
    s.blk.done = true ∧ s.blk.outLen = 8 := by
  refine ⟨accessState ((r0.issue 1).completeOk (hex 8 0x0191d1ad794daf9b)) 0x140 (.write 7), _, rfl,
    step_write _ _ _ _ (by decide) (by decide) rfl, by simp [accessState], ?_, ?_, rfl, rfl⟩
  · intro v rest h
    simp only [accessState, List.cons.injEq, PortEvent.access.injEq, Access.mk.injEq] at h
    omega
  · intro v rest h
    simp only [accessState, List.cons.injEq, PortEvent.access.injEq, Access.mk.injEq] at h
    omega

/-! ## Invariants and runs -/

theorem reset_inv : Block.reset.Inv := by
  constructor
  case outTail => intro k _ _; rfl
  all_goals decide

/-- The reset state, idle and with a soft reset at the port. -/
theorem witness_StepKeepsInvariant : ∃ s t : State, s.Inv ∧ step s = .next t ∧ s.port ≠ [] :=
  ⟨accessState r0 0x010 (.write 1), _, reset_inv, step_write _ _ _ _ (by decide) (by decide) rfl, by simp [accessState]⟩

theorem witness_FatalOnlyIfPrimitiveMissing : ∃ s t : State,
    (s.blk.fatal = true → ∃ p, Config.hw.avail.has p = false) ∧ step s = .next t ∧ s.blk.busy = true := by
  refine ⟨pendingState 0x33 r0, _, fun h => ?_, rfl, rfl⟩
  exact absurd h (by decide)

theorem witness_MemoryIsItsReads : ∃ m m' : Memory, m.wf ∧ m'.wf ∧ (∀ x, m.readByte x = m'.readByte x) ∧ m.length = 2 :=
  ⟨[(1, 7), (2, 9)], [(1, 7), (2, 9)], by decide, by decide, fun _ => rfl, rfl⟩

/-- A list with an access inside the window, one outside it, a reset and a turn of the sequencer. -/
theorem witness_CleanPortNeverFaults : ∃ s : State, portClean Config.hw s.port ∧ s.port.length = 4 := by
  refine ⟨{ blk := r0, port := [.access ⟨Config.hw.base + 0xFFC, 32, .write 1⟩,
    .access ⟨Config.hw.base + 0x1001, 8, .read⟩, .hardReset, .sequencer], reply := none }, ?_, rfl⟩
  intro a ha
  simp only [List.mem_cons, PortEvent.access.injEq, reduceCtorEq, List.not_mem_nil, or_false] at ha
  obtain rfl | rfl := ha
  · simp only [Access.clean, windowOffset_base _ _ (show (0xFFC : Nat) < windowSize by decide)]; decide
  · simp only [Access.clean, windowOffset_outside Config.hw (Config.hw.base + 0x1001) (.inr (by unfold windowSize; omega))]

/-- A poll, a dropped write and a CTRL write of 0 before the sequencer's turn. -/
theorem witness_LatencyDoesNotChangeTheOutcome : ∃ (s : State) (accesses : List Access) (rest : List PortEvent),
    s.blk.busy = true ∧ decode s.blk.cmd = .ok .pexp ∧ s.port = accesses.map .access ++ .sequencer :: rest ∧
    (∀ a ∈ accesses, a.clean Config.hw) ∧
    (∀ a ∈ accesses, ∀ v, a.op = .write v → windowOffset Config.hw a.addr = some 0x010 → v.getLsbD 0 = false) ∧
    accesses.length = 3 := by
  refine ⟨⟨r0.issue 1, [.access ⟨Config.hw.base + 0x014, 32, .read⟩,
      .access ⟨Config.hw.base + 0x03C, 32, .write 0⟩, .access ⟨Config.hw.base + 0x010, 32, .write 0⟩, .sequencer], none⟩,
    [⟨Config.hw.base + 0x014, 32, .read⟩, ⟨Config.hw.base + 0x03C, 32, .write 0⟩, ⟨Config.hw.base + 0x010, 32, .write 0⟩],
    [], rfl, rfl, rfl, ?_, ?_, rfl⟩
  · intro a ha
    simp only [List.mem_cons, List.not_mem_nil, or_false] at ha
    obtain rfl | rfl | rfl := ha
    · simp only [Access.clean, windowOffset_base _ _ (show (0x014 : Nat) < windowSize by decide)]; decide
    · simp only [Access.clean, windowOffset_base _ _ (show (0x03C : Nat) < windowSize by decide)]; decide
    · simp only [Access.clean, windowOffset_base _ _ (show (0x010 : Nat) < windowSize by decide)]; decide
  · intro a ha v hv _
    simp only [List.mem_cons, List.not_mem_nil, or_false] at ha
    obtain rfl | rfl | rfl := ha
    · cases hv
    · cases hv; decide
    · cases hv; decide

/-- A pending word with a reserved bit set and FATAL = 0 or 1; a dropped write and a CTRL write of 0 come first. -/
theorem witness_LatencyDoesNotSaveAnUnlistedWord : ∀ fatal : Bool, ∃ (s : State) (accesses : List Access)
    (rest : List PortEvent), s.blk.busy = true ∧ (∀ i, encode i ≠ s.blk.cmd) ∧ s.blk.fatal = fatal ∧
    s.port = accesses.map .access ++ .sequencer :: rest ∧ (∀ a ∈ accesses, a.clean Config.hw) ∧
    (∀ a ∈ accesses, ∀ v, a.op = .write v → windowOffset Config.hw a.addr = some 0x010 → v.getLsbD 0 = false) ∧
    accesses.length = 2 := by
  intro fatal
  obtain ⟨s, -, -, -, hs⟩ := witness_UnlistedWordEndsIllegal
  refine ⟨⟨Block.issue { r0 with fatal := fatal } s.blk.cmd, [.access ⟨Config.hw.base + 0x03C, 32, .write 0⟩,
      .access ⟨Config.hw.base + 0x010, 32, .write 0⟩, .sequencer], none⟩,
    [⟨Config.hw.base + 0x03C, 32, .write 0⟩, ⟨Config.hw.base + 0x010, 32, .write 0⟩], [], rfl, hs, rfl, rfl, ?_, ?_, rfl⟩
  · intro a ha
    simp only [List.mem_cons, List.not_mem_nil, or_false] at ha
    obtain rfl | rfl := ha
    · simp only [Access.clean, windowOffset_base _ _ (show (0x03C : Nat) < windowSize by decide)]; decide
    · simp only [Access.clean, windowOffset_base _ _ (show (0x010 : Nat) < windowSize by decide)]; decide
  · intro a ha v hv _
    simp only [List.mem_cons, List.not_mem_nil, or_false] at ha
    obtain rfl | rfl := ha <;> cases hv <;> decide

theorem witness_WaitEndsWithDone : ∀ polls ∈ [0, 2], ∃ s : State, s.blk.busy = true ∧ s.port = waitEvents Config.hw polls :=
  fun polls _ => ⟨{ blk := r0.issue 0x10, port := waitEvents Config.hw polls, reply := none }, rfl, rfl⟩

/-- No byte, a number of bytes that is no multiple of four, and a full buffer. -/
theorem witness_LoadbLoadsTheOperand : ∀ n ∈ [0, 7, 16], ∃ (s : State) (b : Bytes), s.blk.busy = false ∧
    b.length ≤ bufCap .kin ∧ s.port = portLines Config.hw (loadb .kin b) ++ [] ∧ b.length = n := by
  intro n hn
  refine ⟨{ blk := r0, port := portLines Config.hw (loadb .kin (List.replicate n 5)) ++ [], reply := none },
    List.replicate n 5, rfl, ?_, rfl, ?_⟩ <;> revert n <;> decide

end Sys2Proof.Tests
end

section
/-! PROOF. The block's side never writes an operand (spec 10_state.md R46). The one write a completion
makes to the memory is the result, at most OUT_CAP bytes from OUT on (R33), and no operand buffer of
R32 meets OUT. -/

namespace Sys2Proof.Machine

/-- The buffer ranges of R32 do not meet the range of OUT (R33). -/
theorem bufByte_offset_outside_out (buf : Buf) (k : Nat) (hk : k < bufCap buf) :
    bufOffset buf + k < outOffset ∨ outOffset + outCap ≤ bufOffset buf + k := by
  cases buf <;> simp only [bufOffset, bufCap, outOffset, outCap] at * <;> omega

/-- A command's result fits OUT. -/
theorem cmdOf_length_le_outCap (c : Config) (i : Instr) (b : Block) (r : Bytes) (h : cmdOf c i b = .ok r) :
    r.length ≤ outCap := by
  rw [cmdOf_length c i b r h]
  have hall : ∀ n ∈ [8, 16, 24, 32, 42], n ≤ outCap := by decide
  exact hall _ (resultBytes_mem i)

/-- What R46 protects: `b'` holds the ID, the length registers and the operand buffers of `b`. -/
def Block.SameOperands (b b' : Block) : Prop :=
  b'.id = b.id ∧ (∀ buf, b'.lenOf buf = b.lenOf buf) ∧
    ∀ buf k, k < bufCap buf → b'.bufByte buf k = b.bufByte buf k

theorem sameOperands_refl (b : Block) : b.SameOperands b := ⟨rfl, fun _ => rfl, fun _ _ _ => rfl⟩

theorem completeError_sameOperands (b : Block) (e : CmdError) : b.SameOperands (b.completeError e) :=
  ⟨completeError_id b e, completeError_lenOf b e, fun _ _ _ => rfl⟩

theorem completeOk_sameOperands (b : Block) (r : Bytes) (hr : r.length ≤ outCap) :
    b.SameOperands (b.completeOk r) := by
  refine ⟨completeOk_id b r, completeOk_lenOf b r, fun buf k hk => ?_⟩
  have := bufByte_offset_outside_out buf k hk
  exact readByte_store_outside _ _ _ _ (by omega)

/-- However a command ends, its operands stay, as long as a result fits OUT. -/
theorem finish_sameOperands (b : Block) (r : Except CmdError Bytes)
    (hr : ∀ bytes, r = .ok bytes → bytes.length ≤ outCap) : b.SameOperands (b.finish r) := by
  obtain ⟨-, h⟩ | ⟨-, bytes, hb, h⟩ | ⟨-, e, -, h⟩ := finish_cases b r
  · exact h ▸ completeError_sameOperands b .fatal
  · exact h ▸ completeOk_sameOperands b bytes (hr bytes hb)
  · exact h ▸ completeError_sameOperands b e

/-- Settles O12: of the ends a step can have (`step_cases`), the turn with nothing to do and a read
leave the block, a completion keeps the operands, and the reset and the host write are excluded. -/
theorem onlyHostOrResetChangesOperands : Obligations.OnlyHostOrResetChangesOperands := by
  intro s t hstep hreset hwrite
  suffices h : s.blk.SameOperands t.blk from h
  obtain ⟨rest, -, -, -, hseq⟩ | ⟨rest, hp, -⟩ | ⟨a, rest, hp, -, rfl⟩ := step_cases s t hstep
  · obtain ⟨-, h⟩ | ⟨-, i, -, h⟩ | ⟨-, e, -, h⟩ := hseq
    · exact h ▸ sameOperands_refl s.blk
    · exact h ▸ finish_sameOperands _ _ (cmdOf_length_le_outCap Config.hw i s.blk)
    · exact h ▸ finish_sameOperands _ _ (by simp)
  · exact absurd hp (hreset rest)
  · obtain h | ⟨off, v, -, -, -, hop, -⟩ := access_cases Config.hw s.blk a
    · exact h.symm ▸ sameOperands_refl s.blk
    · exact absurd hop (hwrite a v rest hp)

end Sys2Proof.Machine
end

section
/-! PROOF. The reset state (spec 10_state.md R50) and the four identity registers, which hold
constants in every state (R23 to R25). -/

namespace Sys2Proof.Machine

/-! ## The identity registers -/

@[simp] theorem readAt_blockId (c : Config) (b : Block) : b.readAt c 0x000 = 0x50414843 := rfl
@[simp] theorem readAt_rev (c : Config) (b : Block) : b.readAt c 0x004 = 0x00000001 := rfl
@[simp] theorem readAt_cap0 (c : Config) (b : Block) : b.readAt c 0x008 = 0x01000200 := rfl
@[simp] theorem readAt_cap1 (c : Config) (b : Block) : b.readAt c 0x00C = cap1Word c := rfl

/-- PRIM_AVAIL as the four bits of CAP1[19:16], MD4 the least (R25). -/
def primBits (a : PrimSet) : BitVec 4 :=
  BitVec.ofBool a.des ++ BitVec.ofBool a.sha1 ++ BitVec.ofBool a.md5 ++ BitVec.ofBool a.md4

theorem primBits_getLsbD (a : PrimSet) :
    (primBits a).getLsbD 0 = a.md4 ∧ (primBits a).getLsbD 1 = a.md5 ∧
    (primBits a).getLsbD 2 = a.sha1 ∧ (primBits a).getLsbD 3 = a.des := by
  obtain ⟨md4, md5, sha1, des⟩ := a
  revert md4 md5 sha1 des
  decide

/-- CAP1 is CH_CAP with PRIM_AVAIL from bit 16 on (R25). -/
theorem cap1Word_eq (c : Config) : cap1Word c = 0x00000100 ||| (primBits c.avail).setWidth 32 <<< 16 := by
  unfold cap1Word
  obtain ⟨md4, md5, sha1, des⟩ := c.avail
  revert md4 md5 sha1 des
  decide

/-! ## The reset state -/

theorem reset_readByte (x : Nat) : State.reset.blk.mem.readByte x = 0 := rfl

theorem reset_lenOf (buf : Buf) : State.reset.blk.lenOf buf = 0 := by cases buf <;> rfl

/-- Settles O42: the registers by R50's record, the identity registers by their constants, and
PRIM_AVAIL's bits by `cap1Word_eq`. -/
theorem resetValues : Obligations.ResetValues := by
  refine ⟨reset_readByte, rfl, reset_lenOf, rfl, rfl, rfl, rfl, rfl, rfl, rfl, rfl, rfl,
    readAt_blockId _ _, readAt_rev _ _, readAt_cap0 _ _, primBits Config.hw.avail, ?_, primBits_getLsbD _⟩
  rw [readAt_cap1, cap1Word_eq]

end Sys2Proof.Machine
end

section
/-! PROOF. The ends of a host access that no read or write reaches: outside the window (spec
20_memory.md R61), and inside it with a bad width or alignment (R62). -/

namespace Sys2Proof.Machine

/-! ## The block's answer -/

theorem access_outside (c : Config) (b : Block) (a : Access) (h : windowOffset c a.addr = none) :
    b.access c a = (.notSelected, b) := by
  simp only [Block.access, h]

theorem access_busError (c : Config) (b : Block) (a : Access) (off : Nat)
    (ho : windowOffset c a.addr = some off) (hbad : a.width ≠ 32 ∨ off % 4 ≠ 0) :
    b.access c a = (.busError, b) := by
  have hn : ¬(a.width = 32 ∧ off % 4 = 0) := by omega
  simp only [Block.access, ho, if_neg hn]

/-! ## The step of an access, by the block's answer -/

theorem step_of_access_busError (s : State) (a : Access) (rest : List PortEvent) (b : Block)
    (hp : s.port = .access a :: rest) (ha : s.blk.access Config.hw a = (.busError, b)) :
    step s = .fault (.busError a.addr a.width) := by
  simp only [step, hp, hostStep, ha]

theorem step_of_access_notSelected (s : State) (a : Access) (rest : List PortEvent) (b : Block)
    (hp : s.port = .access a :: rest) (ha : s.blk.access Config.hw a = (.notSelected, b)) :
    step s = .next { blk := b, port := rest, reply := some .notSelected } := by
  simp only [step, hp, hostStep, ha]

/-! ## The two statements -/

/-- Settles O43: the offset decodes, the width or alignment check fails, and the host's step turns
that answer into its fault. -/
theorem badAccessIsBusError : Obligations.BadAccessIsBusError := by
  intro s off width op rest hoff hbad hp
  have hans := access_busError Config.hw s.blk ⟨Config.hw.base + off, width, op⟩ off
    (windowOffset_base Config.hw off hoff) hbad
  exact ⟨hans, step_of_access_busError s _ rest s.blk hp hans⟩

/-- Settles O44: an address of the window is BASE plus an offset below 0x1000; any other address does
not decode, so the block is not selected. -/
theorem addressDecode : Obligations.AddressDecode := by
  constructor
  · intro a hlo hhi
    have hoff : a - Config.hw.base < windowSize := by unfold windowSize; omega
    have hdec := windowOffset_base Config.hw (a - Config.hw.base) hoff
    rwa [Nat.add_sub_cancel' hlo] at hdec
  · intro s a rest hout hp
    have hnone := windowOffset_outside Config.hw a.addr (by unfold windowSize; omega)
    have hans := access_outside Config.hw s.blk a hnone
    exact ⟨_, step_of_access_notSelected s a rest s.blk hp hans, rfl, rfl⟩

end Sys2Proof.Machine
end

section
/-! PROOF. The checks of a command in the order of its row (spec 40_stream_and_parity.md R104 to R107):
what one check does to the rest of the computation is said once per check, each command's pseudocode is
read off as a chain of these checks, and the two statements follow by induction on the row. -/

namespace Sys2Proof.Machine

/-- The computation `x` answers as the operand checks `ops`, made in order, and then the primitive check
of `ps` say: LENGTH of the first operand that fails (R106), otherwise PRIM of the first primitive that is
missing, otherwise a result (R107). -/
def ChecksRow (c : Config) (b : Block) (ps : List Prim) (x : Except CmdError Bytes) : List (Buf × Nat) → Prop
  | [] =>
    match ps.find? (fun p => !c.avail.has p) with
    | some p => x = .error (.prim p)
    | none => ∃ r, x = .ok r
  | o :: ops => (¬ b.passes o → x = .error (.length o.1)) ∧ (b.passes o → ChecksRow c b ps x ops)

section
variable {c : Config} {b : Block} {ps : List Prim} {ops : List (Buf × Nat)} {x : Except CmdError Bytes}

/-! ## What a row says of the answer -/

theorem ChecksRow.error_of_first_bad {before after : List (Buf × Nat)} {bad : Buf × Nat}
    (h : ChecksRow c b ps x (before ++ bad :: after)) (hbefore : ∀ o ∈ before, b.passes o)
    (hbad : ¬ b.passes bad) : x = .error (.length bad.1) := by
  induction before with
  | nil => exact h.1 hbad
  | cons o before ih =>
    obtain ⟨ho, hbefore⟩ := List.forall_mem_cons.1 hbefore
    exact ih (h.2 ho) hbefore

theorem ChecksRow.nil_of_all_pass (h : ChecksRow c b ps x ops) (hops : ∀ o ∈ ops, b.passes o) :
    ChecksRow c b ps x [] := by
  induction ops with
  | nil => exact h
  | cons o ops ih =>
    obtain ⟨ho, hops⟩ := List.forall_mem_cons.1 hops
    exact ih (h.2 ho) hops

/-! ## One rule per check -/

theorem need_of_passes {buf : Buf} {n : Nat} (h : b.passes (buf, n)) : ∃ a, b.need buf n = .ok a :=
  ⟨_, need_ok b buf n h.1 h.2⟩

theorem need_of_not_passes {buf : Buf} {n : Nat} (h : ¬ b.passes (buf, n)) :
    b.need buf n = .error (.length buf) := by
  classical
  rw [need_eq, if_neg h]

theorem var_of_passes {buf : Buf} (h : b.passes (buf, 0)) : ∃ a, b.var buf = .ok a :=
  ⟨_, var_ok b buf h.2⟩

theorem var_of_not_passes {buf : Buf} (h : ¬ b.passes (buf, 0)) : b.var buf = .error (.length buf) := by
  classical
  rw [var_eq, if_neg h]

/-- A check that raises LENGTH exactly when its operand does not pass puts the operand before the row of
what follows. -/
theorem checksRow_bind {α : Type} {check : Except CmdError α} {f : α → Except CmdError Bytes} {o : Buf × Nat}
    (hbad : ¬ b.passes o → check = .error (.length o.1)) (hgood : b.passes o → ∃ a, check = .ok a)
    (hf : ∀ a, ChecksRow c b ps (f a) ops) : ChecksRow c b ps (check >>= f) (o :: ops) := by
  constructor
  · intro ho
    rw [hbad ho]
    rfl
  · intro ho
    obtain ⟨a, ha⟩ := hgood ho
    rw [ha]
    exact hf a

theorem checksRow_need_bind {buf : Buf} {n : Nat} {f : BytesN n → Except CmdError Bytes}
    (hf : ∀ a, ChecksRow c b ps (f a) ops) : ChecksRow c b ps (b.need buf n >>= f) ((buf, n) :: ops) :=
  checksRow_bind need_of_not_passes need_of_passes hf

theorem checksRow_var_bind {buf : Buf} {f : Bytes → Except CmdError Bytes}
    (hf : ∀ a, ChecksRow c b ps (f a) ops) : ChecksRow c b ps (b.var buf >>= f) ((buf, 0) :: ops) :=
  checksRow_bind var_of_not_passes var_of_passes hf

/-- CURKEY stands last in every row that has it, and only with CKP = 1 (R106). -/
theorem checksRow_currentKey_bind {ckp : Bool} {n : Nat} {f : Option (BytesN n) → Except CmdError Bytes}
    (hf : ∀ a, ChecksRow c b ps (f a) []) :
    ChecksRow c b ps (b.currentKey ckp n >>= f) (if ckp then [(.curkey, n)] else []) := by
  cases ckp with
  | false => exact hf none
  | true =>
    have hbad (ho : ¬ b.passes (.curkey, n)) : b.currentKey true n = .error (.length .curkey) :=
      congrArg (Except.map some) (need_of_not_passes ho)
    have hgood (ho : b.passes (.curkey, n)) : ∃ k, b.currentKey true n = .ok k := by
      obtain ⟨k, hk⟩ := need_of_passes ho
      exact ⟨some k, congrArg (Except.map some) hk⟩
    exact checksRow_bind hbad hgood hf

/-- `require` looks at the primitives of its list in the order of their ids, however the list is
written. -/
theorem checksRow_require_bind {listed : List Prim} {f : Unit → Except CmdError Bytes}
    (hps : [Prim.md4, .md5, .sha1, .des].filter listed.contains = ps) (hf : ∃ r, f () = .ok r) :
    ChecksRow c b ps (require c listed >>= f) [] := by
  have hfind : ([Prim.md4, .md5, .sha1, .des].find? fun p => listed.contains p && !c.avail.has p) =
      ps.find? (fun p => !c.avail.has p) := by
    simp only [← hps, List.find?_filter, Bool.decide_and, Bool.decide_eq_true]
  simp only [ChecksRow, require, hfind]
  cases ps.find? (fun p => !c.avail.has p) with
  | some p => rfl
  | none => exact hf

end

/-! ## All commands -/

/-- Every command's pseudocode checks its row of R85: the operands in order, then the primitives. -/
theorem cmdOf_checksRow (c : Config) (i : Instr) (b : Block) :
    ChecksRow c b (primRow i) (cmdOf c i b) (operandRow i) := by
  cases i
  case pexp => exact checksRow_need_bind fun _ => ⟨_, rfl⟩
  case lmHash | ntHash | ntHashHash => exact checksRow_var_bind fun _ => checksRow_require_bind rfl ⟨_, rfl⟩
  case getAsymStartKey => exact checksRow_need_bind fun _ => checksRow_require_bind rfl ⟨_, rfl⟩
  case chapResp =>
    exact checksRow_var_bind fun _ => checksRow_var_bind fun _ => checksRow_require_bind rfl ⟨_, rfl⟩
  case v1Chresp | getStartKey | getMasterKey =>
    exact checksRow_need_bind fun _ => checksRow_need_bind fun _ => checksRow_require_bind rfl ⟨_, rfl⟩
  case lmChresp | ntChresp =>
    exact checksRow_need_bind fun _ => checksRow_var_bind fun _ => checksRow_require_bind rfl ⟨_, rfl⟩
  case getSessionKeys64 | getSessionKeys128 =>
    exact checksRow_var_bind fun _ => checksRow_need_bind fun _ => checksRow_require_bind rfl ⟨_, rfl⟩
  case getKey ckp k16 =>
    cases k16 <;> exact checksRow_need_bind fun _ => checksRow_currentKey_bind fun _ =>
      checksRow_require_bind rfl ⟨_, rfl⟩
  case getKey40 | getKey56 =>
    exact checksRow_var_bind fun _ => checksRow_currentKey_bind fun _ => checksRow_require_bind rfl ⟨_, rfl⟩
  case getKey128 =>
    exact checksRow_need_bind fun _ => checksRow_var_bind fun _ => checksRow_currentKey_bind fun _ =>
      checksRow_require_bind rfl ⟨_, rfl⟩
  case challengeHash =>
    exact checksRow_need_bind fun _ => checksRow_need_bind fun _ => checksRow_var_bind fun _ =>
      checksRow_require_bind rfl ⟨_, rfl⟩
  case genNtResp =>
    exact checksRow_need_bind fun _ => checksRow_need_bind fun _ => checksRow_var_bind fun _ =>
      checksRow_var_bind fun _ => checksRow_require_bind rfl ⟨_, rfl⟩
  case genAuthResp =>
    exact checksRow_var_bind fun _ => checksRow_need_bind fun _ => checksRow_need_bind fun _ =>
      checksRow_need_bind fun _ => checksRow_var_bind fun _ => checksRow_require_bind rfl ⟨_, rfl⟩

/-! ## The two statements -/

/-- Settles O13: the row names the error (`ChecksRow.error_of_first_bad`), and the completion records it
under the operand's id. -/
theorem firstBadOperandEndsLength : Obligations.FirstBadOperandEndsLength := by
  intro i s before after bad hp hf hrow hbefore hbad
  have hchecks := cmdOf_checksRow Config.hw i s.blk
  rw [hrow] at hchecks
  have hfailed := complete_failed s (.length bad.1) hp hf
  rw [← hchecks.error_of_first_bad hbefore hbad] at hfailed
  exact ⟨_, exec_eq_complete i s, hfailed⟩

/-- Settles O14: past the operands the row leaves the primitive check; what it finds missing is the PRIM
error, and with nothing missing the result has its row's length (`cmdOf_length`). -/
theorem missingPrimitiveEndsPrim : Obligations.MissingPrimitiveEndsPrim := by
  intro i s hp hf hpass
  refine ⟨_, exec_eq_complete i s, ?_⟩
  have hprims := (cmdOf_checksRow Config.hw i s.blk).nil_of_all_pass hpass
  simp only [ChecksRow] at hprims
  cases hfind : (primRow i).find? (fun p => !Config.hw.avail.has p) with
  | none =>
    rw [hfind] at hprims
    obtain ⟨r, hr⟩ := hprims
    rw [hr]
    exact ⟨r, cmdOf_length _ i s.blk r hr, complete_succeeded s r hp hf (cmdOf_length_le_outCap _ i s.blk r hr)⟩
  | some p =>
    rw [hfind] at hprims
    rw [hprims]
    have hfailed := complete_failed s (.prim p) hp hf
    cases p <;> exact hfailed

end Sys2Proof.Machine
end

section
/-! PROOF. The CHAP response (spec 41_chap.md R130, R131): the two operands pass, so all that is left of
CHAP_RESP is the check of its one primitive. -/

namespace Sys2Proof.Machine

/-- `var` of an operand that fits its buffer is the operand's bytes. -/
theorem var_eq_ok_bytes (b : Block) (buf : Buf) (h : (b.lenOf buf).toNat ≤ bufCap buf) :
    b.var buf = .ok (b.bytes buf (b.lenOf buf).toNat) :=
  var_ok b buf h

/-- All that `require` of one primitive can answer (R107). -/
theorem require_singleton (c : Config) (p : Prim) :
    require c [p] = if c.avail.has p = true then .ok () else .error (.prim p) := by
  split
  · next h => exact require_ok c [p] (by simpa using h)
  · next h => cases p <;> simp [require, h]

/-- CHAP_RESP on operands that fit: MD5 missing is the one error left (R131). -/
theorem cmdChapResp_eq (c : Config) (b : Block) (hpw : b.pwLen.toNat ≤ bufCap .pw)
    (hch : b.chLen.toNat ≤ bufCap .chal) :
    cmdChapResp c b = if c.avail.md5 = true
      then .ok (chapresp c b.id (b.bytes .pw b.pwLen.toNat) (b.bytes .chal b.chLen.toNat)).toList
      else .error (.prim .md5) := by
  have hmd5 : require c [.md5] = if c.avail.md5 = true then .ok () else .error (.prim .md5) :=
    require_singleton c .md5
  simp only [cmdChapResp, var_eq_ok_bytes b .pw hpw, var_eq_ok_bytes b .chal hch, hmd5]
  split
  · rfl
  · rfl

/-- Settles O16: by `cmdChapResp_eq` the command's answer splits on MD5 alone, and each branch completes
as R227 and R228 say. -/
theorem chapRespHashesIdPasswordChallenge : Obligations.ChapRespHashesIdPasswordChallenge := by
  intro s hp hf hpw hch
  refine ⟨_, exec_eq_complete .chapResp s, ?_⟩
  rw [cmdOf, cmdChapResp_eq Config.hw s.blk hpw hch]
  split
  · exact complete_succeeded s _ hp hf (by simp [outCap])
  · exact complete_failed s (.prim .md5) hp hf

end Sys2Proof.Machine
end

section
/-! PROOF. MS-CHAPv1 hashes and challenge response (spec 42_mschapv1.md R140 to R147). The loop of the
parity expander gives the closed form of 40_stream_and_parity.md R111; with it the model's functions are the
relations the statements name, and each command on operands that pass splits on its one primitive. -/

namespace Sys2Proof.Machine

/-! ## The parity expander's closed form (40_stream_and_parity.md R110, R111) -/

/-- Byte `m` of R110's loop, entered at byte `i` with the carry of the byte `prev` before it: the byte
`m` of the input and the one before it, each shifted to its place. After the last byte `getD` gives 0. -/
theorem parFrom_getD (i : Nat) (prev : Byte) (ks : Bytes) (m : Nat) (hm : m ≤ ks.length) :
    (parFrom i (prev.toNat <<< (8 - i)) ks).getD m 0 =
      low8 ((ks.getD m 0).toNat >>> (i + m) ||| ((prev :: ks).getD m 0).toNat <<< (8 - (i + m)) ||| 1) := by
  induction ks generalizing i prev m with
  | nil =>
    obtain rfl : m = 0 := Nat.le_zero.1 hm
    simp [parFrom]
  | cons k ks ih =>
    cases m with
    | zero => rfl
    | succ m =>
      have hcarry : 7 - i = 8 - (i + 1) := by omega
      have hindex : i + (m + 1) = i + 1 + m := by omega
      simp only [parFrom, List.getD_cons_succ, hcarry, hindex]
      exact ih (i + 1) k m (Nat.le_of_succ_le_succ hm)

theorem par_getD (k : BytesN 7) (i : Nat) (hi : i < 8) :
    (par k).toList.getD i 0 =
      low8 ((k.toList.getD i 0).toNat >>> i ||| ((0 :: k.toList).getD i 0).toNat <<< (8 - i) ||| 1) := by
  have h := parFrom_getD 0 0 k.toList i (by simp; omega)
  rw [Nat.zero_add] at h
  exact h

/-- The parity bit of every output byte is forced to 1 (R111). -/
theorem low8_or_one_getLsbD_zero (x : Nat) : (low8 (x ||| 1)).getLsbD 0 = true := by
  simp [low8]

theorem byte_getMsbD (a : Byte) (j : Nat) (hj : j < 8) : a.getMsbD j = a.toNat.testBit (7 - j) := by
  simp [BitVec.getMsbD_eq_getLsbD, BitVec.testBit_toNat, hj]

theorem low8_getMsbD (x j : Nat) (hj : j < 8) : (low8 x).getMsbD j = x.testBit (7 - j) := by
  have hbit : 7 - j < 8 := by omega
  rw [low8, BitVec.getMsbD_eq_getLsbD, BitVec.getLsbD_ofNat]
  simp [hj, hbit]

theorem byte_testBit_eq_false (a : Byte) (n : Nat) (hn : 8 ≤ n) : a.toNat.testBit n = false := by
  rw [BitVec.testBit_toNat]
  exact BitVec.getLsbD_of_ge a n hn

/-- The seven key bits of an output byte: the last `i` bits of the byte before, then the first bits of
this one. -/
theorem low8_carry_getMsbD (a prev : Byte) (i j : Nat) (hi : i < 8) (hj : j < 7) :
    (low8 (a.toNat >>> i ||| prev.toNat <<< (8 - i) ||| 1)).getMsbD j =
      if j < i then prev.getMsbD (8 - i + j) else a.getMsbD (j - i) := by
  have hparity : Nat.testBit 1 (7 - j) = false := by
    rw [← Bool.not_eq_true, Nat.testBit_one_eq_true_iff_self_eq_zero]
    omega
  rw [low8_getMsbD _ j (by omega), Nat.testBit_or, Nat.testBit_or, hparity, Bool.or_false,
    Nat.testBit_shiftRight, Nat.testBit_shiftLeft]
  split
  · next h =>
    have hbit : 7 - j - (8 - i) = 7 - (8 - i + j) := by omega
    have hcarried : 8 - i ≤ 7 - j := by omega
    rw [byte_testBit_eq_false a _ (by omega), byte_getMsbD _ _ (by omega), hbit]
    simp [hcarried]
  · next h =>
    have hbit : i + (7 - j) = 7 - (j - i) := by omega
    have hnot : ¬ 8 - i ≤ 7 - j := by omega
    rw [byte_getMsbD _ _ (by omega), hbit]
    simp [hnot]

theorem isPar_par (k : BytesN 7) : IsPar k (par k) := by
  intro i hi
  rw [par_getD k i hi]
  refine ⟨low8_or_one_getLsbD_zero _, fun j hj => ?_⟩
  rw [low8_carry_getMsbD _ _ i j hi hj]
  split
  · next h =>
    obtain ⟨i, rfl⟩ : ∃ i', i = i' + 1 := ⟨i - 1, by omega⟩
    rw [show (7 * (i + 1) + j) / 8 = i by omega, show (7 * (i + 1) + j) % 8 = 8 - (i + 1) + j by omega]
    rfl
  · next h =>
    rw [show (7 * i + j) / 8 = i by omega, show (7 * i + j) % 8 = j - i by omega]

theorem isDesx_desx (c : Config) (k : BytesN 7) (p : BytesN 8) : IsDesx c k p (desx c k p) :=
  ⟨par k, isPar_par k, rfl⟩

/-! ## Slices -/

/-- A slice that begins where a prefix ends makes it longer. -/
theorem take_append_slice {m : Nat} (b : BytesN m) (lo n : Nat) (h : lo + n ≤ m) :
    b.toList.take lo ++ (slice b lo n h).toList = b.toList.take (lo + n) :=
  List.take_add.symm

theorem take_toList {m : Nat} (b : BytesN m) : b.toList.take m = b.toList :=
  List.take_of_length_le (by simp)

theorem halves_append (b : BytesN 14) : (slice b 0 7).toList ++ (slice b 7 7).toList = b.toList :=
  (take_append_slice b 7 7 _).trans (take_toList b)

theorem thirds_append (b : BytesN 21) :
    (slice b 0 7).toList ++ (slice b 7 7).toList ++ (slice b 14 7).toList = b.toList :=
  calc (slice b 0 7).toList ++ (slice b 7 7).toList ++ (slice b 14 7).toList
      = b.toList.take 14 ++ (slice b 14 7).toList := congrArg (· ++ _) (take_append_slice b 7 7 _)
    _ = b.toList.take 21 := take_append_slice b 14 7 _
    _ = b.toList := take_toList b

/-! ## The functions are the spec's relations -/

/-- `upc` subtracts on bytes; the relation `IsLmHash` subtracts on numbers. -/
theorem upc_eq_map_ofNat (pw : Bytes) :
    upc pw = pw.map fun x : Byte =>
      if 0x61 ≤ x.toNat ∧ x.toNat ≤ 0x7A then BitVec.ofNat 8 (x.toNat - 0x20) else x := by
  refine List.map_congr_left fun x _ => ?_
  split
  · bv_omega
  · rfl

theorem lmMagic_toList : lmMagic.toList = asciiBytes "KGS!@#$%" := by decide

theorem isLmHash_lmhash (c : Config) (pw : Bytes) : IsLmHash c pw (lmhash c pw) := by
  refine ⟨_, _, lmMagic, _, _, ?_, lmMagic_toList, isDesx_desx _ _ _, isDesx_desx _ _ _, rfl⟩
  have hbuffer : (lm14 pw).toList = (upc pw ++ List.replicate 14 0).take 14 := rfl
  rw [← upc_eq_map_ofNat, ← hbuffer]
  exact halves_append (lm14 pw)

theorem isChresp_chresp (c : Config) (ch : BytesN 8) (h : BytesN 16) : IsChresp c ch h (chresp c ch h).toList :=
  ⟨_, _, _, _, _, _, thirds_append (cat h (zeros 5)),
    isDesx_desx _ _ _, isDesx_desx _ _ _, isDesx_desx _ _ _, rfl⟩

/-! ## The commands on operands that pass -/

/-- A command of one variable operand and one primitive, on an operand that fits its buffer. -/
theorem var_require_eq (c : Config) (b : Block) (buf : Buf) (p : Prim) (f : Bytes → Bytes)
    (hlen : (b.lenOf buf).toNat ≤ bufCap buf) :
    (do
      let x ← b.var buf
      require c [p]
      return f x) =
      if c.avail.has p = true then .ok (f (b.bytes buf (b.lenOf buf).toNat)) else .error (.prim p) := by
  rw [var_eq_ok_bytes b buf hlen, require_singleton]
  split
  · rfl
  · rfl

theorem cmdLmHash_eq (c : Config) (b : Block) (hpw : b.pwLen.toNat ≤ bufCap .pw) :
    cmdLmHash c b = if c.avail.des = true
      then .ok (lmhash c (b.bytes .pw b.pwLen.toNat)).toList else .error (.prim .des) :=
  var_require_eq c b .pw .des (fun x => (lmhash c x).toList) hpw

theorem cmdNtHash_eq (c : Config) (b : Block) (hpw : b.pwLen.toNat ≤ bufCap .pw) :
    cmdNtHash c b = if c.avail.md4 = true
      then .ok (nthash c (b.bytes .pw b.pwLen.toNat)).toList else .error (.prim .md4) :=
  var_require_eq c b .pw .md4 (fun x => (nthash c x).toList) hpw

theorem cmdNtHashHash_eq (c : Config) (b : Block) (hpw : b.pwLen.toNat ≤ bufCap .pw) :
    cmdNtHashHash c b = if c.avail.md4 = true
      then .ok (hashhash c (b.bytes .pw b.pwLen.toNat)).toList else .error (.prim .md4) :=
  var_require_eq c b .pw .md4 (fun x => (hashhash c x).toList) hpw

/-- `need` of an operand whose length passes is the byte string that stands in its buffer. -/
theorem need_eq_ok_of_toList (b : Block) (buf : Buf) (n : Nat) (x : BytesN n) (hx : x.toList = b.bytes buf n)
    (hlo : n ≤ (b.lenOf buf).toNat) (hhi : (b.lenOf buf).toNat ≤ bufCap buf) : b.need buf n = .ok x := by
  rw [need_ok b buf n hlo hhi]
  exact congrArg Except.ok (Subtype.ext hx.symm)

theorem cmdV1Chresp_eq (c : Config) (b : Block) (ch : BytesN 8) (h : BytesN 16)
    (hch : b.need .chal 8 = .ok ch) (hkin : b.need .kin 16 = .ok h) :
    cmdV1Chresp c b = if c.avail.des = true then .ok (chresp c ch h).toList else .error (.prim .des) := by
  have hdes : require c [.des] = if c.avail.des = true then .ok () else .error (.prim .des) :=
    require_singleton c .des
  simp only [cmdV1Chresp, hch, hkin, hdes]
  split
  · rfl
  · rfl

/-! ## The three statements -/

/-- Settles O17: by `cmdLmHash_eq` the command splits on DES alone, and the hash it gives is the spec's
(`isLmHash_lmhash`). -/
theorem lmHashComputesLmHash : Obligations.LmHashComputesLmHash := by
  intro s hp hf hpw
  refine ⟨_, exec_eq_complete .lmHash s, ?_⟩
  rw [cmdOf, cmdLmHash_eq Config.hw s.blk hpw]
  split
  · exact ⟨_, isLmHash_lmhash _ _, complete_succeeded s _ hp hf (by simp [outCap])⟩
  · exact complete_failed s (.prim .des) hp hf

/-- Settles O18: both commands split on MD4 alone, and `nthash` and `hashhash` are MD4 once and twice by
definition. -/
theorem ntHashAndHashHash : Obligations.NtHashAndHashHash := by
  intro s hp hf hpw
  refine ⟨_, _, exec_eq_complete .ntHash s, exec_eq_complete .ntHashHash s, ?_⟩
  rw [cmdOf, cmdOf, cmdNtHash_eq Config.hw s.blk hpw, cmdNtHashHash_eq Config.hw s.blk hpw]
  split
  · exact ⟨complete_succeeded s _ hp hf (by simp [outCap]), complete_succeeded s _ hp hf (by simp [outCap])⟩
  · exact ⟨complete_failed s (.prim .md4) hp hf, complete_failed s (.prim .md4) hp hf⟩

/-- Settles O19: both operands pass, the command splits on DES alone (`cmdV1Chresp_eq`), and its response
is the spec's (`isChresp_chresp`). -/
theorem v1ChrespEncryptsThreeTimes : Obligations.V1ChrespEncryptsThreeTimes := by
  intro s hp hf hlo hhi hkin ch h hch hh
  have hneedCh := need_eq_ok_of_toList s.blk .chal 8 ch hch hlo hhi
  have hneedKin := need_eq_ok_of_toList s.blk .kin 16 h hh hkin.ge hkin.le
  refine ⟨_, exec_eq_complete .v1Chresp s, ?_⟩
  rw [cmdOf, cmdV1Chresp_eq Config.hw s.blk ch h hneedCh hneedKin]
  split
  · exact ⟨_, isChresp_chresp _ _ _, complete_succeeded s _ hp hf (by simp [outCap])⟩
  · exact complete_failed s (.prim .des) hp hf

end Sys2Proof.Machine
end

section
/-! PROOF. The start key of MPPE from MS-CHAPv1 (spec 43_mschapv1_mppe.md R160, R164): both operands pass,
so all that is left of GET_START_KEY is the check of its one primitive and the cut of the digest. -/

namespace Sys2Proof.Machine

/-- A command of two fixed-length operands and one primitive, on operands that pass. -/
theorem need_need_require_eq (c : Config) (b : Block) {buf₁ buf₂ : Buf} {n₁ n₂ : Nat} (p : Prim)
    (f : BytesN n₁ → BytesN n₂ → Bytes) {x : BytesN n₁} {y : BytesN n₂}
    (hx : b.need buf₁ n₁ = .ok x) (hy : b.need buf₂ n₂ = .ok y) :
    (do
      let a₁ ← b.need buf₁ n₁
      let a₂ ← b.need buf₂ n₂
      require c [p]
      return f a₁ a₂) =
      if c.avail.has p = true then .ok (f x y) else .error (.prim p) := by
  rw [hx, hy, require_singleton]
  split
  · rfl
  · rfl

/-- The stream and the cut of R160, as lists of bytes. -/
theorem startkey_toList (c : Config) (ch : BytesN 8) (hh : BytesN 16) :
    (startkey c ch hh).toList = (c.sha1 (hh.toList ++ hh.toList ++ ch.toList)).toList.take 16 := rfl

/-- GET_START_KEY on operands that pass: SHA1 missing is the one error left (R164). -/
theorem cmdGetStartKey_eq (c : Config) (b : Block) (ch : BytesN 8) (hh : BytesN 16)
    (hch : b.need .chal 8 = .ok ch) (hkin : b.need .kin 16 = .ok hh) :
    cmdGetStartKey c b = if c.avail.sha1 = true
      then .ok (startkey c ch hh).toList else .error (.prim .sha1) :=
  need_need_require_eq c b .sha1 (fun ch hh => (startkey c ch hh).toList) hch hkin

/-- Settles O22: both operands pass, the command splits on SHA1 alone (`cmdGetStartKey_eq`), and the key
is the stream and cut of R160 over the operands' bytes (`startkey_toList`). -/
theorem getStartKeyHashesTwice : Obligations.GetStartKeyHashesTwice := by
  intro s hp hf hlo hhi hkin
  have hneedCh := need_ok s.blk .chal 8 hlo hhi
  have hneedKin := need_ok s.blk .kin 16 hkin.ge hkin.le
  refine ⟨_, exec_eq_complete .getStartKey s, ?_⟩
  rw [cmdOf, cmdGetStartKey_eq Config.hw s.blk _ _ hneedCh hneedKin, startkey_toList]
  split
  · exact complete_succeeded s _ hp hf (by simp [outCap])
  · exact complete_failed s (.prim .sha1) hp hf

end Sys2Proof.Machine
end

section
/-! PROOF. MS-CHAPv2 (spec 44_mschapv2.md R180 to R187). The three commands take the same challenge hash
over operands that pass; what is left of each is its check of primitives, which goes by their ids, and its
own function, said in the terms of the statements. -/

namespace Sys2Proof.Machine

/-! ## The primitive check of several primitives -/

/-- `require` goes through all primitives by their ids (R107); for a list that is in that order it is enough
to go through the list. -/
theorem find?_missing_of_ordered (c : Config) (ps : List Prim)
    (hps : [Prim.md4, .md5, .sha1, .des].filter ps.contains = ps) :
    ([Prim.md4, .md5, .sha1, .des].find? fun p => ps.contains p && !c.avail.has p) =
      ps.find? (fun p => !c.avail.has p) := by
  conv_rhs => rw [← hps]
  simp only [List.find?_filter, Bool.decide_and, Bool.decide_eq_true]

/-- The first primitive of an ordered list is the first to be missed. -/
theorem require_cons (c : Config) (p : Prim) (ps : List Prim)
    (hcons : [Prim.md4, .md5, .sha1, .des].filter (p :: ps).contains = p :: ps)
    (hps : [Prim.md4, .md5, .sha1, .des].filter ps.contains = ps) :
    require c (p :: ps) = if c.avail.has p = false then .error (.prim p) else require c ps := by
  simp only [require, find?_missing_of_ordered c _ hcons, find?_missing_of_ordered c _ hps]
  cases hp : c.avail.has p with
  | false => simp [hp]
  | true => simp [hp]

theorem require_md4_sha1 (c : Config) :
    require c [.md4, .sha1] = if c.avail.md4 = false then .error (.prim .md4)
      else if c.avail.sha1 = false then .error (.prim .sha1) else .ok () := by
  rw [require_cons c .md4 _ rfl rfl, require_cons c .sha1 _ rfl rfl]
  rfl

theorem require_md4_sha1_des (c : Config) :
    require c [.md4, .sha1, .des] = if c.avail.md4 = false then .error (.prim .md4)
      else if c.avail.sha1 = false then .error (.prim .sha1)
      else if c.avail.des = false then .error (.prim .des) else .ok () := by
  rw [require_cons c .md4 _ rfl rfl, require_cons c .sha1 _ rfl rfl, require_cons c .des _ rfl rfl]
  rfl

/-! ## The functions in the terms of the statements -/

theorem chalhash_toList (c : Config) (pc ac : BytesN 16) (u : Bytes) :
    (chalhash c pc ac u).toList = challengeHashBytes c pc.toList ac.toList u := rfl

theorem signMagic_toList : signMagic.toList = asciiBytes "Magic server to client signing constant" := by decide

theorem padMagic_toList : padMagic.toList = asciiBytes "Pad to make it do more than one iteration" := by decide

/-- `hexDigit` counts the letters from 0x41 for 10; `hexText` adds 0x37 to the digit. -/
theorem hexDigit_eq_ofNat (n : Nat) :
    hexDigit n = BitVec.ofNat 8 (if n < 10 then 0x30 + n else 0x37 + n) := by
  unfold hexDigit low8
  split
  · rfl
  · exact congrArg (BitVec.ofNat 8) (by omega)

theorem hexu_eq_hexText (d : Bytes) : hexu d = hexText d := by
  induction d with
  | nil => rfl
  | cons x d ih =>
    rw [hexu, ih, hexDigit_eq_ofNat, hexDigit_eq_ofNat]
    rfl

theorem pwdigest_toList (c : Config) (p : Bytes) (nr : BytesN 24) :
    (pwdigest c p nr).toList = (c.sha1 ((c.md4 (c.md4 p).toList).toList ++ nr.toList ++
      asciiBytes "Magic server to client signing constant")).toList := by
  rw [pwdigest, signMagic_toList, hashhash]

theorem authdigest_toList (c : Config) (p : Bytes) (nr : BytesN 24) (pc ac : BytesN 16) (u : Bytes) :
    (authdigest c p nr pc ac u).toList = (c.sha1 ((pwdigest c p nr).toList ++
      challengeHashBytes c pc.toList ac.toList u ++
      asciiBytes "Pad to make it do more than one iteration")).toList := by
  rw [authdigest, padMagic_toList, chalhash_toList]

theorem authstr_eq_hexText (c : Config) (p : Bytes) (nr : BytesN 24) (pc ac : BytesN 16) (u : Bytes) :
    authstr c p nr pc ac u = asciiBytes "S=" ++ hexText (authdigest c p nr pc ac u).toList := by
  have hprefix : asciiBytes "S=" = [0x53, 0x3D] := by decide
  rw [authstr, hexu_eq_hexText, hprefix]

theorem authstr_length (c : Config) (p : Bytes) (nr : BytesN 24) (pc ac : BytesN 16) (u : Bytes) :
    (authstr c p nr pc ac u).length = 42 := by
  simp [authstr, hexu_length]

/-! ## The commands on operands that pass -/

/-- `need` of an operand that passes gives the operand's bytes. -/
theorem need_eq_ok_bytes (b : Block) (buf : Buf) (n : Nat) (hlo : n ≤ (b.lenOf buf).toNat)
    (hhi : (b.lenOf buf).toNat ≤ bufCap buf) : ∃ x, b.need buf n = .ok x ∧ x.toList = b.bytes buf n :=
  ⟨_, need_ok b buf n hlo hhi, load_eq_bytes b buf n⟩

section
variable (c : Config) (b : Block) {pc ac : BytesN 16} {u : Bytes}
  (hpc : b.need .pchal 16 = .ok pc) (hac : b.need .achal 16 = .ok ac) (hu : b.var .user = .ok u)
include hpc hac hu

/-- R185 past its operands. -/
theorem cmdChallengeHash_eq : cmdChallengeHash c b =
    if c.avail.sha1 = true then .ok (chalhash c pc ac u).toList else .error (.prim .sha1) := by
  have hsha1 : require c [.sha1] = if c.avail.sha1 = true then .ok () else .error (.prim .sha1) :=
    require_singleton c .sha1
  simp only [cmdChallengeHash, hpc, hac, hu, hsha1]
  split
  · rfl
  · rfl

/-- R186 past its operands. -/
theorem cmdGenNtResp_eq {p : Bytes} (hp : b.var .pw = .ok p) : cmdGenNtResp c b =
    if c.avail.md4 = false then .error (.prim .md4)
    else if c.avail.sha1 = false then .error (.prim .sha1)
    else if c.avail.des = false then .error (.prim .des)
    else .ok (ntresponse c ac pc u p).toList := by
  simp only [cmdGenNtResp, hpc, hac, hu, hp, require_md4_sha1_des]
  split
  · rfl
  · split
    · rfl
    · split
      · rfl
      · rfl

/-- R187 past its operands. -/
theorem cmdGenAuthResp_eq {p : Bytes} {nr : BytesN 24} (hp : b.var .pw = .ok p)
    (hnr : b.need .ntresp 24 = .ok nr) : cmdGenAuthResp c b =
    if c.avail.md4 = false then .error (.prim .md4)
    else if c.avail.sha1 = false then .error (.prim .sha1)
    else .ok (authstr c p nr pc ac u) := by
  simp only [cmdGenAuthResp, hpc, hac, hu, hp, hnr, require_md4_sha1]
  split
  · rfl
  · split
    · rfl
    · rfl

end

/-! ## The three statements -/

/-- Settles O26: the command splits on SHA1 alone (`cmdChallengeHash_eq`), and `chalhash` of the operands'
bytes is the digest and cut of R180 (`chalhash_toList`). -/
theorem challengeHashPeerFirst : Obligations.ChallengeHashPeerFirst := by
  intro s hp hf hpcLen hacLen huserLen
  obtain ⟨pc, hpc, hpcBytes⟩ := need_eq_ok_bytes s.blk .pchal 16 hpcLen.ge hpcLen.le
  obtain ⟨ac, hac, hacBytes⟩ := need_eq_ok_bytes s.blk .achal 16 hacLen.ge hacLen.le
  have hu := var_eq_ok_bytes s.blk .user huserLen
  refine ⟨_, exec_eq_complete .challengeHash s, ?_⟩
  rw [cmdOf, cmdChallengeHash_eq Config.hw s.blk hpc hac hu, chalhash_toList, hpcBytes, hacBytes]
  split
  · exact complete_succeeded s _ hp hf (by simp [challengeHashBytes, outCap])
  · exact complete_failed s (.prim .sha1) hp hf

/-- Settles O27: the command splits on its three primitives by their ids (`cmdGenNtResp_eq`), and its
response is that of R143 to the challenge hash under the NT hash (`isChresp_chresp`). -/
theorem genNtRespComposes : Obligations.GenNtRespComposes := by
  intro s hp hf hpcLen hacLen huserLen hpwLen
  obtain ⟨pc, hpc, hpcBytes⟩ := need_eq_ok_bytes s.blk .pchal 16 hpcLen.ge hpcLen.le
  obtain ⟨ac, hac, hacBytes⟩ := need_eq_ok_bytes s.blk .achal 16 hacLen.ge hacLen.le
  have hu := var_eq_ok_bytes s.blk .user huserLen
  have hpw := var_eq_ok_bytes s.blk .pw hpwLen
  refine ⟨_, exec_eq_complete .genNtResp s, ?_⟩
  rw [cmdOf, cmdGenNtResp_eq Config.hw s.blk hpc hac hu hpw, ← hpcBytes, ← hacBytes]
  split
  · exact complete_failed s (.prim .md4) hp hf
  · split
    · exact complete_failed s (.prim .sha1) hp hf
    · split
      · exact complete_failed s (.prim .des) hp hf
      · exact ⟨_, _, chalhash_toList _ _ _ _, isChresp_chresp _ _ _,
          complete_succeeded s _ hp hf (by simp [outCap])⟩

/-- Settles O28: the command splits on MD4 and SHA1 by their ids (`cmdGenAuthResp_eq`); its text is that of
R184 (`authstr_eq_hexText`) over the digests of R183 and R182 (`authdigest_toList`, `pwdigest_toList`). -/
theorem genAuthRespIsText : Obligations.GenAuthRespIsText := by
  intro s hp hf hpwLen hnrLen hpcLen hacLen huserLen
  have hpw := var_eq_ok_bytes s.blk .pw hpwLen
  obtain ⟨nr, hnr, hnrBytes⟩ := need_eq_ok_bytes s.blk .ntresp 24 hnrLen.ge hnrLen.le
  obtain ⟨pc, hpc, hpcBytes⟩ := need_eq_ok_bytes s.blk .pchal 16 hpcLen.ge hpcLen.le
  obtain ⟨ac, hac, hacBytes⟩ := need_eq_ok_bytes s.blk .achal 16 hacLen.ge hacLen.le
  have hu := var_eq_ok_bytes s.blk .user huserLen
  refine ⟨_, exec_eq_complete .genAuthResp s, ?_⟩
  rw [cmdOf, cmdGenAuthResp_eq Config.hw s.blk hpc hac hu hpw hnr, ← hpcBytes, ← hacBytes, ← hnrBytes]
  split
  · exact complete_failed s (.prim .md4) hp hf
  · split
    · exact complete_failed s (.prim .sha1) hp hf
    · refine ⟨_, _, _, rfl, pwdigest_toList _ _ _, authdigest_toList _ _ _ _ _ _, ?_⟩
      rw [← authstr_eq_hexText]
      exact complete_succeeded s _ hp hf (by simp [authstr_length, outCap])

end Sys2Proof.Machine
end

section
/-! PROOF. MPPE key derivation from MS-CHAPv2 (spec 45_mschapv2_mppe.md R200 to R207). The magics are the
texts of the statements, so each function is the statements' own stream and cut; what is left of each
command over operands that pass is its check of primitives. -/

namespace Sys2Proof.Machine

/-! ## The functions in the terms of the statements -/

theorem masterMagic_toList : masterMagic.toList = asciiBytes "This is the MPPE Master Key" := by decide

theorem recvMagic_toList : recvMagic.toList =
    asciiBytes "On the client side, this is the receive key; on the server side, it is the send key." := by
  decide

theorem sendMagic_toList : sendMagic.toList =
    asciiBytes "On the client side, this is the send key; on the server side, it is the receive key." := by
  decide

/-- The receive text is selected exactly when the two flags are equal (R201). -/
theorem asymMagic_toList (isSend isServer : Bool) : (asymMagic isSend isServer).toList =
    asciiBytes (if isSend = isServer
      then "On the client side, this is the receive key; on the server side, it is the send key."
      else "On the client side, this is the send key; on the server side, it is the receive key.") := by
  unfold asymMagic
  split
  · exact recvMagic_toList
  · exact sendMagic_toList

/-- The stream and the cut of R200, as lists of bytes. -/
theorem masterkey_toList (c : Config) (hh : BytesN 16) (nr : BytesN 24) :
    (masterkey c hh nr).toList =
      (c.sha1 (hh.toList ++ nr.toList ++ asciiBytes "This is the MPPE Master Key")).toList.take 16 := by
  rw [← masterMagic_toList]
  rfl

theorem asymkey_toList (c : Config) (mk : BytesN 16) (k16 isSend isServer : Bool) :
    (asymkey c mk k16 isSend isServer).toList = asymKeyBytes c mk.toList (keyLen k16) isSend isServer := by
  rw [asymKeyBytes, ← asymMagic_toList, take_toList]
  rfl

/-- The send key, then the receive key, both for the server (R203). -/
theorem sessionkeys_toList (c : Config) (k16 : Bool) (p : Bytes) (nr : BytesN 24) :
    (sessionkeys c k16 p nr).toList =
      asymKeyBytes c (masterkey c (hashhash c p) nr).toList (keyLen k16) true true ++
        asymKeyBytes c (masterkey c (hashhash c p) nr).toList (keyLen k16) false true := by
  rw [← asymkey_toList, ← asymkey_toList]
  rfl

theorem keyLen_eq_ite (k16 : Bool) : keyLen k16 = if k16 then 16 else 8 := by
  cases k16
  · rfl
  · rfl

/-! ## The commands on operands that pass -/

/-- R204 past its operands. -/
theorem cmdGetMasterKey_eq (c : Config) (b : Block) {hh : BytesN 16} {nr : BytesN 24}
    (hkin : b.need .kin 16 = .ok hh) (hnr : b.need .ntresp 24 = .ok nr) :
    cmdGetMasterKey c b = if c.avail.sha1 = true
      then .ok (masterkey c hh nr).toList else .error (.prim .sha1) :=
  need_need_require_eq c b .sha1 (fun hh nr => (masterkey c hh nr).toList) hkin hnr

/-- R205 past its operand. -/
theorem cmdGetAsymStartKey_eq (c : Config) (isSend isServer k16 : Bool) (b : Block) {mk : BytesN 16}
    (hkin : b.need .kin 16 = .ok mk) :
    cmdGetAsymStartKey c isSend isServer k16 b = if c.avail.sha1 = true
      then .ok (asymkey c mk k16 isSend isServer).toList else .error (.prim .sha1) := by
  have hsha1 : require c [.sha1] = if c.avail.sha1 = true then .ok () else .error (.prim .sha1) :=
    require_singleton c .sha1
  simp only [cmdGetAsymStartKey, hkin, hsha1]
  split
  · rfl
  · rfl

/-- R206 and R207 are one computation at the two key lengths. -/
theorem password_ntresp_require_eq (c : Config) (b : Block) (f : Bytes → BytesN 24 → Bytes)
    {p : Bytes} {nr : BytesN 24} (hp : b.var .pw = .ok p) (hnr : b.need .ntresp 24 = .ok nr) :
    (do
      let x ← b.var .pw
      let y ← b.need .ntresp 24
      require c [.md4, .sha1]
      return f x y) =
      if c.avail.md4 = false then .error (.prim .md4)
      else if c.avail.sha1 = false then .error (.prim .sha1)
      else .ok (f p nr) := by
  rw [hp, hnr, require_md4_sha1]
  split
  · rfl
  · split
    · rfl
    · rfl

theorem cmdGetSessionKeys64_eq (c : Config) (b : Block) {p : Bytes} {nr : BytesN 24}
    (hp : b.var .pw = .ok p) (hnr : b.need .ntresp 24 = .ok nr) : cmdGetSessionKeys64 c b =
    if c.avail.md4 = false then .error (.prim .md4)
    else if c.avail.sha1 = false then .error (.prim .sha1)
    else .ok (sessionkeys c false p nr).toList :=
  password_ntresp_require_eq c b (fun p nr => (sessionkeys c false p nr).toList) hp hnr

theorem cmdGetSessionKeys128_eq (c : Config) (b : Block) {p : Bytes} {nr : BytesN 24}
    (hp : b.var .pw = .ok p) (hnr : b.need .ntresp 24 = .ok nr) : cmdGetSessionKeys128 c b =
    if c.avail.md4 = false then .error (.prim .md4)
    else if c.avail.sha1 = false then .error (.prim .sha1)
    else .ok (sessionkeys c true p nr).toList :=
  password_ntresp_require_eq c b (fun p nr => (sessionkeys c true p nr).toList) hp hnr

/-- The result of R206 and R207, at either key length. -/
theorem complete_sessionkeys_succeeded (s : State) (k16 : Bool) (p : Bytes) (nr : BytesN 24)
    (hp : s.blk.pending) (hf : s.blk.fatal = false) :
    Succeeded s (s.complete (.ok (sessionkeys Config.hw k16 p nr).toList))
      (asymKeyBytes Config.hw (masterkey Config.hw (hashhash Config.hw p) nr).toList (keyLen k16) true true ++
        asymKeyBytes Config.hw (masterkey Config.hw (hashhash Config.hw p) nr).toList (keyLen k16) false true) := by
  have hfits : keyLen k16 + keyLen k16 ≤ outCap := by cases k16 <;> decide
  rw [← sessionkeys_toList]
  exact complete_succeeded s _ hp hf (by simpa using hfits)

/-! ## The three statements -/

/-- Settles O29: both operands pass, the command splits on SHA1 alone (`cmdGetMasterKey_eq`), and the key
is the stream and cut of R200 over the operands' bytes (`masterkey_toList`). -/
theorem getMasterKeyHashes : Obligations.GetMasterKeyHashes := by
  intro s hp hf hkinLen hnrLen
  obtain ⟨hh, hkin, hkinBytes⟩ := need_eq_ok_bytes s.blk .kin 16 hkinLen.ge hkinLen.le
  obtain ⟨nr, hnr, hnrBytes⟩ := need_eq_ok_bytes s.blk .ntresp 24 hnrLen.ge hnrLen.le
  refine ⟨_, exec_eq_complete .getMasterKey s, ?_⟩
  rw [cmdOf, cmdGetMasterKey_eq Config.hw s.blk hkin hnr, masterkey_toList, hkinBytes, hnrBytes]
  split
  · exact complete_succeeded s _ hp hf (by simp [outCap])
  · exact complete_failed s (.prim .sha1) hp hf

/-- Settles O30: the operand passes, the command splits on SHA1 alone (`cmdGetAsymStartKey_eq`), and the
key is that of R202 under the text R201 selects (`asymkey_toList`), whose length is the form's. -/
theorem getAsymStartKeySelectsMagic : Obligations.GetAsymStartKeySelectsMagic := by
  intro send server k16 s hp hf hkinLen
  obtain ⟨mk, hkin, hkinBytes⟩ := need_eq_ok_bytes s.blk .kin 16 hkinLen.ge hkinLen.le
  have hfits : keyLen k16 ≤ outCap := (keyLen_le k16).trans (by decide)
  refine ⟨_, exec_eq_complete (.getAsymStartKey send server k16) s, ?_⟩
  rw [cmdOf, cmdGetAsymStartKey_eq Config.hw send server k16 s.blk hkin, ← hkinBytes, ← keyLen_eq_ite,
    ← asymkey_toList]
  split
  · exact complete_succeeded s _ hp hf (by simpa using hfits)
  · exact complete_failed s (.prim .sha1) hp hf

/-- Settles O31: both commands split on MD4 and SHA1 by their ids (`cmdGetSessionKeys64_eq`,
`cmdGetSessionKeys128_eq`), and each gives the two asymmetric keys of R203
(`complete_sessionkeys_succeeded`) under the master key of the hash-hash (`masterkey_toList`). -/
theorem sessionKeysSendThenReceive : Obligations.SessionKeysSendThenReceive := by
  intro s hp hf hpwLen hnrLen
  have hpw := var_eq_ok_bytes s.blk .pw hpwLen
  obtain ⟨nr, hnr, hnrBytes⟩ := need_eq_ok_bytes s.blk .ntresp 24 hnrLen.ge hnrLen.le
  refine ⟨_, _, exec_eq_complete .getSessionKeys64 s, exec_eq_complete .getSessionKeys128 s, ?_⟩
  rw [cmdOf, cmdOf, cmdGetSessionKeys64_eq Config.hw s.blk hpw hnr,
    cmdGetSessionKeys128_eq Config.hw s.blk hpw hnr, ← hnrBytes]
  split
  · exact ⟨complete_failed s (.prim .md4) hp hf, complete_failed s (.prim .md4) hp hf⟩
  · split
    · exact ⟨complete_failed s (.prim .sha1) hp hf, complete_failed s (.prim .sha1) hp hf⟩
    · refine ⟨_, _, rfl, masterkey_toList _ _ _, ?_⟩
      exact ⟨complete_sessionkeys_succeeded s false _ nr hp hf, complete_sessionkeys_succeeded s true _ nr hp hf⟩

end Sys2Proof.Machine
end

section
/-! PROOF. The soft reset (spec 70_reset_and_hazards.md R251), the accesses while BUSY = 1 (R257), and
how BWE is cleared: a completion keeps it, so only a reset or the W1C of STATUS can. -/

namespace Sys2Proof.Machine

/-! ## A write to CTRL -/

/-- A write to CTRL does the same whether a command is pending or not (R251, R257). -/
theorem writeAt_ctrl (b : Block) (v : Word) :
    b.writeAt 0x010 v = if v.getLsbD 0 = true then Block.reset else b := by
  have htarget : target 0x010 = .ctrl := rfl
  simp only [Block.writeAt, htarget, ne_eq, not_true_eq_false, and_false, if_false, Block.writeCtrl, resetNow_eq]

/-! ## What clears BWE -/

/-- However a command ends, BWE stays. -/
@[simp] theorem finish_bwe (b : Block) (r : Except CmdError Bytes) : (b.finish r).bwe = b.bwe := by
  obtain ⟨-, h⟩ | ⟨-, bytes, -, h⟩ | ⟨-, e, -, h⟩ := finish_cases b r
  · rw [h, completeError_bwe]
  · rw [h, completeOk_bwe]
  · rw [h, completeError_bwe]

/-- The writes that clear BWE: a soft reset, and the W1C of STATUS while BUSY = 0. -/
theorem writeAt_clears_bwe (b : Block) (off : Nat) (v : Word) (hset : b.bwe = true)
    (hclear : (b.writeAt off v).bwe = false) :
    (off = 0x010 ∧ v.getLsbD 0 = true) ∨ (off = 0x014 ∧ v.getLsbD 4 = true ∧ b.busy = false) := by
  obtain ⟨-, -, h⟩ | ⟨ht, hv, -⟩ | ⟨hb, ht, h⟩ | ⟨-, -, h⟩ | ⟨-, -, h⟩ | ⟨-, buf, -, h⟩ | ⟨-, buf, -, h⟩ | h :=
    writeAt_cases b off v
  case inr.inl => exact .inl ⟨target_ctrl off ht, hv⟩
  case inr.inr.inl =>
    have hv : v.getLsbD 4 = true := by simpa [h, hset] using hclear
    exact .inr ⟨target_status off ht, hv, hb⟩
  all_goals simp [h, hset] at hclear

/-- The host accesses that clear BWE, an access being a write of 32 bits to BASE plus its offset. -/
theorem access_clears_bwe (c : Config) (b : Block) (a : Access) (hset : b.bwe = true)
    (hclear : (b.access c a).2.bwe = false) :
    (∃ v, a = ⟨c.base + 0x010, 32, .write v⟩ ∧ v.getLsbD 0 = true) ∨
    (∃ v, a = ⟨c.base + 0x014, 32, .write v⟩ ∧ v.getLsbD 4 = true ∧ b.busy = false) := by
  obtain h | ⟨off, v, hoff, hwidth, -, hop, h⟩ := access_cases c b a
  · simp [h, hset] at hclear
  · obtain ⟨addr, width, op⟩ := a
    obtain ⟨rfl, -⟩ := windowOffset_some c addr off hoff
    subst hwidth hop
    obtain ⟨rfl, hv⟩ | ⟨rfl, hv, hb⟩ := writeAt_clears_bwe b off v hset (h ▸ hclear)
    · exact .inl ⟨v, rfl, hv⟩
    · exact .inr ⟨v, rfl, hv, hb⟩

/-! ## The two statements -/

/-- Settles O39: an offset other than CTRL's is no target of a reset, so a busy block drops the write
(`writeAt_busy`); and of the ends a step can have (`step_cases`), the sequencer's turn keeps BWE and a
host access clears it in two ways only (`access_clears_bwe`). -/
theorem writesWhileBusyAreDropped : Obligations.WritesWhileBusyAreDropped := by
  refine ⟨?write, ?read, ?clear⟩
  case write =>
    intro s off v rest hbusy hoff halign hctrl hp
    exact ⟨_, step_write s off v rest hoff halign hp,
      writeAt_busy s.blk off v hbusy (mt (target_ctrl off) hctrl), rfl⟩
  case read =>
    intro s off rest _ hoff halign hp
    exact ⟨_, step_read s off rest hoff halign hp, rfl, rfl⟩
  case clear =>
    intro s t hstep hset hclear
    obtain ⟨rest, -, -, -, hseq⟩ | ⟨rest, hp, -⟩ | ⟨a, rest, hp, -, rfl⟩ := step_cases s t hstep
    · have hkeep : t.blk.bwe = s.blk.bwe := by
        obtain ⟨-, h⟩ | ⟨-, i, -, h⟩ | ⟨-, e, -, h⟩ := hseq <;> simp [h]
      simp [hkeep, hset] at hclear
    · exact .inl ⟨rest, hp⟩
    · obtain ⟨v, rfl, hv⟩ | ⟨v, rfl, hv, hb⟩ := access_clears_bwe Config.hw s.blk a hset hclear
      · exact .inr (.inl ⟨v, rest, hp, hv⟩)
      · exact .inr (.inr ⟨v, rest, hp, hv, hb⟩)

/-- Settles O40: the step is the write to CTRL (`step_write`), and that write is the one `if` of
`writeAt_ctrl`. -/
theorem ctrlWriteResets : Obligations.CtrlWriteResets := by
  intro s v rest hp
  exact ⟨_, step_write s 0x010 v rest (by decide) (by decide) hp, writeAt_ctrl s.blk v, rfl⟩

end Sys2Proof.Machine
end

section
/-! PROOF. Decoding and encoding (spec 30_encoding.md R80 to R87). A word is determined by its fields, and
the decoder, the encoder and the table's rows each say what the fields are. -/

namespace Sys2Proof

/-! ## A word is its fields (R80) -/

theorem ofWord_injective {w w' : Word} (h : C32.ofWord w = C32.ofWord w') : w = w' := by
  simp only [C32.ofWord, C32.mk.injEq, Flags.mk.injEq] at h
  obtain ⟨hopc, ⟨hsend, hserver, hckp, hk16⟩, hrsv⟩ := h
  apply BitVec.eq_of_getLsbD_eq
  intro n hn
  have hcases : n < 8 ∨ n = 8 ∨ n = 9 ∨ n = 10 ∨ n = 11 ∨ 12 ≤ n := by omega
  obtain h | rfl | rfl | rfl | rfl | h := hcases
  · simpa [h] using congrArg (·.getLsbD n) hopc
  · exact hsend
  · exact hserver
  · exact hckp
  · exact hk16
  · have hbit : n - 12 < 20 := by omega
    simpa [hbit, Nat.add_sub_cancel' h] using congrArg (·.getLsbD (n - 12)) hrsv

/-! ## The decoder and the encoder (R82, R86) -/

/-- All that the decoder accepts: an opcode of the map, no reserved bit, and only allowed flags. -/
theorem decode_eq_ok_iff (w : Word) (i : Instr) :
    decode w = .ok i ↔ ∃ m, (C32.ofWord w).opc = m.opcode ∧ (C32.ofWord w).rsv = 0 ∧
      AsmCmd.wf ⟨m, (C32.ofWord w).flags⟩ = true ∧ AsmCmd.build ⟨m, (C32.ofWord w).flags⟩ = i := by
  constructor
  · intro h
    simp only [decode] at h
    split at h
    · cases h
    · next m hm =>
      split at h
      · cases h
      · next hrsv =>
        split at h
        · next hwf => exact ⟨m, opcode_of_opcodeMnemonic _ m hm, not_not.1 hrsv, hwf, Except.ok.inj h⟩
        · cases h
  · rintro ⟨m, hopc, hrsv, hwf, rfl⟩
    simp [decode, hopc, hrsv, hwf, opcodeMnemonic_opcode]

theorem decode_encode (i : Instr) : decode (encode i) = .ok i := by
  have hfields : C32.ofWord (encode i) = ⟨i.asm.mnemonic.opcode, i.asm.flags, 0⟩ := ofWord_word i.asm
  rw [decode_eq_ok_iff, hfields]
  exact ⟨i.asm.mnemonic, rfl, rfl, instr_wf i, asm_build i⟩

theorem encode_of_decode {w : Word} {i : Instr} (h : decode w = .ok i) : encode i = w := by
  obtain ⟨m, hopc, hrsv, hwf, rfl⟩ := (decode_eq_ok_iff w i).1 h
  apply ofWord_injective
  rw [encode, build_asm _ hwf, ofWord_word, ← hopc, ← hrsv]

/-- Settles O1: the decoder reads back every encoded word (`decode_encode`), and a decoded word is fixed by
the fields it was decoded from (`encode_of_decode`, by `ofWord_injective`). -/
theorem decodeAndEncodeAgree : Obligations.DecodeAndEncodeAgree := by
  intro w i
  constructor
  · exact encode_of_decode
  · rintro rfl
    exact decode_encode i

/-! ## The opcode table (R82, R85) -/

/-- The mask keeps the opcode, the reserved bits and the flags the row does not allow. -/
theorem ofWord_mask (m : Mnemonic) :
    C32.ofWord m.mask = ⟨BitVec.allOnes 8, ⟨!m.allowed.send, !m.allowed.server, !m.allowed.ckp, !m.allowed.k16⟩,
      BitVec.allOnes 20⟩ := by
  cases m <;> decide

theorem ofWord_matchWord (m : Mnemonic) : C32.ofWord m.matchWord = ⟨m.opcode, {}, 0⟩ := by
  have hword : AsmCmd.word ⟨m, {}⟩ = m.matchWord := by
    have hbits : Flags.bits {} = 0 := by decide
    rw [AsmCmd.word, hbits]
    exact BitVec.or_zero
  rw [← hword, ofWord_word]

/-- A word matches a row exactly when its fields are the row's. -/
theorem and_mask_eq_matchWord_iff (w : Word) (m : Mnemonic) :
    w &&& m.mask = m.matchWord ↔ (C32.ofWord w).opc = m.opcode ∧ (C32.ofWord w).rsv = 0 ∧
      AsmCmd.wf ⟨m, (C32.ofWord w).flags⟩ = true := by
  have hmask := ofWord_mask m
  have hfields : w &&& m.mask = m.matchWord ↔ C32.ofWord (w &&& m.mask) = C32.ofWord m.matchWord :=
    ⟨congrArg _, ofWord_injective⟩
  rw [hfields, ofWord_matchWord]
  simp only [C32.ofWord, C32.mk.injEq, Flags.mk.injEq] at hmask ⊢
  obtain ⟨hopc, ⟨hsend, hserver, hckp, hk16⟩, hrsv⟩ := hmask
  simp only [BitVec.extractLsb'_and, BitVec.getLsbD_and, hopc, hsend, hserver, hckp, hk16, hrsv,
    BitVec.and_allOnes, AsmCmd.wf, Flags.within, Bool.and_eq_true, Bool.or_eq_true, Bool.not_eq_true',
    Bool.and_eq_false_iff, Bool.not_eq_false']
  tauto

/-- Settles O2: the numbers are the masks and matches of the mnemonics, and the decoder and a row ask the
same of a word's fields (`decode_eq_ok_iff`, `and_mask_eq_matchWord_iff`). -/
theorem decodeAcceptsExactlyTheTable : Obligations.DecodeAcceptsExactlyTheTable := by
  intro w
  have hrows : ∀ p : Word × Word → Prop,
      (∃ row ∈ opMap.map fun m => (m.mask, m.matchWord), p row) ↔ ∃ m : Mnemonic, p (m.mask, m.matchWord) := by
    intro p
    have hall : ∀ m, m ∈ opMap := fun m => by cases m <;> decide
    simp [hall]
  refine Iff.trans ?_ (hrows fun row => w &&& row.1 = row.2).symm
  simp only [decode_eq_ok_iff, and_mask_eq_matchWord_iff]
  constructor
  · rintro ⟨i, m, hopc, hrsv, hwf, -⟩
    exact ⟨m, hopc, hrsv, hwf⟩
  · rintro ⟨m, hopc, hrsv, hwf⟩
    exact ⟨_, m, hopc, hrsv, hwf, rfl⟩

/-- Settles O3: each word is its command's encoding (`decode_encode`). -/
theorem wordsOfTheSpecDecode : Obligations.WordsOfTheSpecDecode :=
  ⟨decode_encode .pexp, decode_encode .chapResp, decode_encode .ntChresp, decode_encode (.getKey false true),
    decode_encode (.getKey40 true), decode_encode .genNtResp, decode_encode (.getAsymStartKey false true true),
    decode_encode (.getAsymStartKey true false false), decode_encode .getSessionKeys128⟩

/-! ## The assembler's command operand (R87) -/

theorem asmCmd_wf_iff (a : AsmCmd) : a.wf = true ↔
    (a.flags.send = true → a.mnemonic.allowed.send = true) ∧
    (a.flags.server = true → a.mnemonic.allowed.server = true) ∧
    (a.flags.ckp = true → a.mnemonic.allowed.ckp = true) ∧
    (a.flags.k16 = true → a.mnemonic.allowed.k16 = true) := by
  simp only [AsmCmd.wf, Flags.within, Bool.and_eq_true, Bool.or_eq_true, Bool.not_eq_true',
    ← Bool.not_eq_true, ← imp_iff_not_or, and_assoc]

theorem allowed_send_iff (m : Mnemonic) : m.allowed.send = true ↔ m = .getAsymStartKey := by
  cases m <;> decide

theorem allowed_server_iff (m : Mnemonic) : m.allowed.server = true ↔ m = .getAsymStartKey := by
  cases m <;> decide

theorem allowed_ckp_iff (m : Mnemonic) :
    m.allowed.ckp = true ↔ m ∈ [Mnemonic.getKey, .getKey40, .getKey56, .getKey128] := by
  cases m <;> decide

theorem allowed_k16_iff (m : Mnemonic) : m.allowed.k16 = true ↔ m ∈ [Mnemonic.getKey, .getAsymStartKey] := by
  cases m <;> decide

/-- Settles O5: the four conditions are the "fields" column of R85, and a well-formed operand is the written
form of its command, whose word decodes back (`decode_encode`). -/
theorem assemblerRefusesDisallowedSuffix : Obligations.AssemblerRefusesDisallowedSuffix := by
  intro a
  refine ⟨?conditions, ?refused, ?accepted⟩
  case conditions =>
    rw [asmCmd_wf_iff, allowed_send_iff, allowed_server_iff, allowed_ckp_iff, allowed_k16_iff]
  case refused =>
    intro hwf
    simp [Machine.assemble, hwf]
  case accepted =>
    intro hwf
    have hasm := build_asm a hwf
    have hword : encode a.build = a.word := congrArg AsmCmd.word hasm
    exact ⟨a.word, if_pos hwf, hword ▸ decode_encode a.build, hasm⟩

end Sys2Proof
end

section
/-! PROOF. How the sequencer's turn ends a pending word, decoded or not (spec 60_exceptions.md R220 to R228).
A word has one answer, its command's or ILLEGAL, and the turn completes with it. -/

namespace Sys2Proof.Machine

/-! ## The turn -/

/-- What a pending word `w` answers before FATAL is looked at: its command's pseudocode, or ILLEGAL
(30_encoding.md R82). -/
def wordAnswer (c : Config) (w : Word) (b : Block) : Except CmdError Bytes :=
  match decode w with
  | .ok i => cmdOf c i b
  | .error _ => .error .illegal

theorem wordAnswer_of_decode (c : Config) {w : Word} {i : Instr} (b : Block) (h : decode w = .ok i) :
    wordAnswer c w b = cmdOf c i b := by
  simp only [wordAnswer, h]

/-- A word that no command encodes to is decoded to none (`encode_of_decode`). -/
theorem wordAnswer_of_unlisted (c : Config) {w : Word} (b : Block) (h : ∀ i, encode i ≠ w) :
    wordAnswer c w b = .error .illegal := by
  unfold wordAnswer
  split
  · next i hi => exact absurd (encode_of_decode hi) (h i)
  · rfl

theorem completePending_eq_complete (s : State) :
    completePending s = .next (s.complete (wordAnswer Config.hw s.blk.cmd s.blk)) := by
  cases hw : decode s.blk.cmd with
  | ok i =>
    rw [wordAnswer_of_decode _ _ hw, ← exec_eq_complete]
    simp only [completePending, hw]
  | error e => simp only [completePending, completeIllegal, wordAnswer, hw]

theorem sequencerTurn_busy (s : State) (hb : s.blk.busy = true) :
    sequencerTurn s = .next (s.complete (wordAnswer Config.hw s.blk.cmd s.blk)) := by
  rw [sequencerTurn, if_pos hb, completePending_eq_complete]

theorem sequencerTurn_idle (s : State) (hb : s.blk.busy = false) : sequencerTurn s = .next s := by
  rw [sequencerTurn, if_neg (by simp [hb])]

theorem step_port_nil (s : State) (hp : s.port = []) : step s = sequencerTurn s := by
  simp only [step, hp]

theorem step_port_sequencer (s : State) (rest : List PortEvent) (hp : s.port = .sequencer :: rest) :
    step s = sequencerTurn { s with port := rest } := by
  simp only [step, hp]

theorem step_port_hardReset (s : State) (rest : List PortEvent) (hp : s.port = .hardReset :: rest) :
    step s = .next { blk := Block.reset, port := rest, reply := s.reply } := by
  simp only [step, hp, resetStep, resetNow_eq]

/-- With nothing at the port a pending word ends with its answer. -/
theorem step_pending (s : State) (hb : s.blk.busy = true) (hp : s.port = []) :
    step s = .next (s.complete (wordAnswer Config.hw s.blk.cmd s.blk)) := by
  rw [step_port_nil s hp, sequencerTurn_busy s hb]

/-- What a command that answers a next state leaves is its completion. -/
theorem eq_complete_of_exec {i : Instr} {s t : State} (h : exec i s = .next t) :
    t = s.complete (cmdOf Config.hw i s.blk) := by
  rw [exec_eq_complete] at h
  exact (Host.Outcome.next.inj h).symm

theorem sequencerTurn_of_decode (s : State) (i : Instr) (hb : s.blk.busy = true) (hi : decode s.blk.cmd = .ok i) :
    sequencerTurn s = exec i s := by
  rw [sequencerTurn_busy s hb, wordAnswer_of_decode _ _ hi, exec_eq_complete]

/-! ## The statements about the turn -/

/-- Settles O6: both kinds of turn are the sequencer's, and that is `exec` of the decoded command
(`sequencerTurn_of_decode`). -/
theorem stepRunsTheDecodedCommand : Obligations.StepRunsTheDecodedCommand := by
  intro s i hb hi
  constructor
  · intro hp
    rw [step_port_nil s hp, sequencerTurn_of_decode s i hb hi]
  · intro rest hp
    rw [step_port_sequencer s rest hp]
    exact sequencerTurn_of_decode { s with port := rest } i hb hi

/-- Settles O7: a command's word is below 2^32, so it is the issued word, and it decodes to the command
(`decode_encode`). -/
theorem fetchWordRunsNext : Obligations.FetchWordRunsNext := by
  intro s i
  have hword : BitVec.ofNat 32 ((encode i).toNat % 2 ^ 32) = encode i := by
    rw [Nat.mod_eq_of_lt (encode i).isLt, BitVec.ofNat_toNat, BitVec.setWidth_eq]
  have hstep := step_port_sequencer (s.withFetchWord 32 (encode i).toNat) s.port rfl
  rw [hstep]
  simp only [State.withFetchWord, hword]
  exact sequencerTurn_of_decode _ i rfl (decode_encode i)

/-- Settles O4: the answer of such a word is ILLEGAL (`wordAnswer_of_unlisted`), which the completion
records. -/
theorem unlistedWordEndsIllegal : Obligations.UnlistedWordEndsIllegal := by
  intro s hpend hf hp hw
  refine ⟨_, step_pending s hpend.1 hp, ?_⟩
  rw [wordAnswer_of_unlisted _ _ hw]
  exact complete_failed s .illegal hpend hf

/-- Settles O8: the turn completes with some answer, and FATAL overrides it (`complete_fatal`). -/
theorem fatalBlocksEveryWord : Obligations.FatalBlocksEveryWord := by
  intro s hpend hf hp
  exact ⟨_, step_pending s hpend.1 hp, complete_fatal s _ hpend hf⟩

/-! ## One of two ends -/

theorem wordAnswer_eq_ok (c : Config) (w : Word) (b : Block) (r : Bytes) (h : wordAnswer c w b = .ok r) :
    ∃ i, decode w = .ok i ∧ cmdOf c i b = .ok r := by
  unfold wordAnswer at h
  split at h
  · next i hi => exact ⟨i, hi, h⟩
  · cases h

/-- The codes of R221. -/
theorem code_range (e : CmdError) : 1 ≤ e.code.toNat ∧ e.code.toNat ≤ 4 := by
  cases e <;> simp [CmdError.code]

theorem Succeeded.err_iff_outLen {s t : State} {r : Bytes} (h : Succeeded s t r) (hr : 0 < r.length) :
    t.blk.err = true ↔ t.blk.outLen = 0 := by
  have hlen : ¬ t.blk.outLen = 0 := fun hzero => hr.ne (by rw [← h.outLen, hzero]; rfl)
  exact iff_of_false (by simp [h.err]) hlen

theorem Failed.err_iff_outLen {s t : State} {code info : BitVec 4} (h : Failed s t code info) :
    t.blk.err = true ↔ t.blk.outLen = 0 := by
  exact iff_of_true h.err h.outLen

theorem resultBytes_pos (i : Instr) : 0 < resultBytes i := by
  have hall : ∀ n ∈ [8, 16, 24, 32, 42], 0 < n := by decide
  exact hall _ (resultBytes_mem i)

/-- Settles O10: with FATAL = 1 the end is the code FATAL; otherwise the word's answer is a result, whose
length is its row's (`cmdOf_length`), or an error, whose code is in range (`code_range`). -/
theorem everyCommandEndsOneWay : Obligations.EveryCommandEndsOneWay := by
  intro s hpend hp
  refine ⟨_, step_pending s hpend.1 hp, ?_⟩
  cases hf : s.blk.fatal with
  | true =>
    have hfailed := complete_fatal s (wordAnswer Config.hw s.blk.cmd s.blk) hpend hf
    exact ⟨hfailed.err_iff_outLen, .inr ⟨4, 0, by decide, by decide, hfailed⟩⟩
  | false =>
    cases ha : wordAnswer Config.hw s.blk.cmd s.blk with
    | ok r =>
      obtain ⟨i, hi, hr⟩ := wordAnswer_eq_ok _ _ _ _ ha
      have hlen := cmdOf_length _ i _ r hr
      have hsucceeded := complete_succeeded s r hpend hf (cmdOf_length_le_outCap _ i _ r hr)
      exact ⟨hsucceeded.err_iff_outLen (hlen ▸ resultBytes_pos i), .inl ⟨i, r, hi, hlen, hsucceeded⟩⟩
    | error e =>
      have hfailed := complete_failed s e hpend hf
      exact ⟨hfailed.err_iff_outLen, .inr ⟨e.code, e.info, (code_range e).1, (code_range e).2, hfailed⟩⟩

/-- Settles O41: the step is the reset agent's (`step_port_hardReset`), and the reset block is idle with
CMD = 0. -/
theorem hardResetClearsEverything : Obligations.HardResetClearsEverything := by
  intro s rest hp
  exact ⟨_, step_port_hardReset s rest hp, rfl, rfl, rfl, rfl⟩

end Sys2Proof.Machine
end

section
/-! PROOF. What the end of a command and a host access leave unchanged (spec 10_state.md R46, R48), and when
FATAL changes: PRIM sets it, and only a reset clears it (60_exceptions.md R224, 70_reset_and_hazards.md
R251). -/

namespace Sys2Proof.Machine

/-! ## The end of a command -/

/-- However a command ends, it is finished, and CMD stays (R226). -/
theorem finish_frame (b : Block) (r : Except CmdError Bytes) :
    (b.finish r).busy = false ∧ (b.finish r).done = true ∧ (b.finish r).cmd = b.cmd := by
  obtain ⟨-, h⟩ | ⟨-, bytes, -, h⟩ | ⟨-, e, -, h⟩ := finish_cases b r
  · simp [h]
  · simp [h]
  · simp [h]

@[simp] theorem finish_busy (b : Block) (r : Except CmdError Bytes) : (b.finish r).busy = false :=
  (finish_frame b r).1
@[simp] theorem finish_done (b : Block) (r : Except CmdError Bytes) : (b.finish r).done = true :=
  (finish_frame b r).2.1
@[simp] theorem finish_cmd (b : Block) (r : Except CmdError Bytes) : (b.finish r).cmd = b.cmd :=
  (finish_frame b r).2.2

/-- FATAL after a completion: it stood before, or the answer was PRIM (R224). -/
theorem finish_fatal (b : Block) (r : Except CmdError Bytes) :
    (b.finish r).fatal = true ↔ b.fatal = true ∨ ∃ p, r = .error (.prim p) := by
  obtain ⟨hf, h⟩ | ⟨hf, bytes, rfl, h⟩ | ⟨hf, e, rfl, h⟩ := finish_cases b r
  · simp [h, hf]
  · simp [h, hf]
  · cases e <;> simp [h, hf, CmdError.setsFatal]

/-- Where no result is stored, a completion changes no byte. -/
theorem finish_readByte_outside (b : Block) (r : Except CmdError Bytes) (n x : Nat)
    (hr : ∀ bytes, r = .ok bytes → bytes.length ≤ n) (hx : x < outOffset ∨ outOffset + n ≤ x) :
    (b.finish r).mem.readByte x = b.mem.readByte x := by
  obtain ⟨-, h⟩ | ⟨-, bytes, hb, h⟩ | ⟨-, e, -, h⟩ := finish_cases b r
  · rw [h, completeError_mem]
  · have hlen := hr bytes hb
    rw [h, completeOk_mem]
    exact readByte_store_outside _ _ _ _ (by omega)
  · rw [h, completeError_mem]

/-- A completion that changes ERRCODE is an error completion, which leaves the memory. -/
theorem finish_mem_of_errcode_ne (b : Block) (r : Except CmdError Bytes)
    (hcode : (b.finish r).errcode ≠ b.errcode) : (b.finish r).mem = b.mem := by
  obtain ⟨-, h⟩ | ⟨-, bytes, -, h⟩ | ⟨-, e, -, h⟩ := finish_cases b r
  · rw [h, completeError_mem]
  · exact absurd (by rw [h, completeOk_errcode]) hcode
  · rw [h, completeError_mem]

/-- Settles O11: a command is the completion of its pseudocode, whose result has its row's length
(`cmdOf_length`); the completion's frame is said field by field above. -/
theorem commandFrame : Obligations.CommandFrame := by
  intro i s t hexec
  obtain rfl := eq_complete_of_exec hexec
  have hlen := fun bytes h => (cmdOf_length Config.hw i s.blk bytes h).le
  obtain ⟨hid, hlens, -⟩ := finish_sameOperands s.blk _ (cmdOf_length_le_outCap Config.hw i s.blk)
  refine ⟨hlens, hid, finish_cmd _ _, finish_bwe _ _, rfl, rfl, fun hf => (finish_fatal _ _).2 (.inl hf), ?_, ?_⟩
  · exact fun x hx => finish_readByte_outside s.blk _ (resultBytes i) x hlen hx
  · intro hcode x
    rw [complete_blk, finish_mem_of_errcode_ne _ _ hcode]

/-! ## Host accesses -/

/-- `access_cases` with the access written out: it changes the block only if it is a 32-bit write to an
aligned offset of the window. -/
theorem access_eq_or_write (c : Config) (b : Block) (a : Access) :
    (b.access c a).2 = b ∨
    ∃ off v, a = ⟨c.base + off, 32, .write v⟩ ∧ off < windowSize ∧ off % 4 = 0 ∧
      (b.access c a).2 = b.writeAt off v := by
  obtain h | ⟨off, v, hoff, hwidth, halign, hop, h⟩ := access_cases c b a
  · exact .inl h
  · obtain ⟨addr, width, op⟩ := a
    obtain ⟨rfl, hlt⟩ := windowOffset_some c addr off hoff
    subst hwidth hop
    exact .inr ⟨off, v, rfl, hlt, halign, h⟩

/-- A write leaves FATAL, or it is a soft reset. -/
theorem writeAt_fatal (b : Block) (off : Nat) (v : Word) :
    (b.writeAt off v).fatal = b.fatal ∨ off = 0x010 ∧ v.getLsbD 0 = true ∧ (b.writeAt off v).fatal = false := by
  obtain ⟨-, -, h⟩ | ⟨ht, hv, h⟩ | ⟨-, -, h⟩ | ⟨-, -, h⟩ | ⟨-, -, h⟩ | ⟨-, buf, -, h⟩ | ⟨-, buf, -, h⟩ | h :=
    writeAt_cases b off v
  case inr.inl => exact .inr ⟨target_ctrl off ht, hv, by rw [h]; rfl⟩
  all_goals exact .inl (by simp [h])

/-- Settles O9: of the ends a step can have (`step_cases`), a turn keeps FATAL (`finish_fatal`), and a host
access clears it only as a soft reset (`writeAt_fatal`). -/
theorem fatalClearedOnlyByReset : Obligations.FatalClearedOnlyByReset := by
  intro s t hstep hset hclear
  obtain ⟨rest, -, -, -, hseq⟩ | ⟨rest, hp, -⟩ | ⟨a, rest, hp, -, rfl⟩ := step_cases s t hstep
  · have hkeep : t.blk.fatal = true := by
      obtain ⟨-, h⟩ | ⟨-, i, -, h⟩ | ⟨-, e, -, h⟩ := hseq
      · rw [h, hset]
      · rw [h, finish_fatal]
        exact .inl hset
      · rw [h, finish_fatal]
        exact .inl hset
    simp [hkeep] at hclear
  · exact .inl ⟨rest, hp⟩
  · right
    obtain h | ⟨off, v, rfl, -, -, h⟩ := access_eq_or_write Config.hw s.blk a
    · simp [h, hset] at hclear
    · obtain hkeep | ⟨rfl, hv, -⟩ := writeAt_fatal s.blk off v
      · simp [h, hkeep, hset] at hclear
      · exact ⟨v, rest, hp, hv⟩

/-- A command's PRIM error names a primitive that is missing. -/
theorem cmdOf_prim_missing (c : Config) (i : Instr) (b : Block) (p : Prim) (h : cmdOf c i b = .error (.prim p)) :
    c.avail.has p = false := by
  obtain ⟨buf, he⟩ | ⟨q, he, hq⟩ := cmdOf_error c i b _ h
  · cases he
  · cases he
    exact hq

/-- Settles O51: a step that sets FATAL is the completion of a PRIM error, whose primitive is missing
(`cmdOf_prim_missing`). -/
theorem fatalOnlyIfPrimitiveMissing : Obligations.FatalOnlyIfPrimitiveMissing := by
  refine ⟨fun h => absurd h (by decide), fun s t hold hstep hfatal => ?_⟩
  obtain ⟨rest, -, -, -, hseq⟩ | ⟨rest, -, rfl⟩ | ⟨a, rest, -, -, rfl⟩ := step_cases s t hstep
  · obtain ⟨-, h⟩ | ⟨-, i, -, h⟩ | ⟨-, e, -, h⟩ := hseq
    · exact hold (h ▸ hfatal)
    · rw [h, finish_fatal] at hfatal
      obtain hf | ⟨p, hprim⟩ := hfatal
      · exact hold hf
      · exact ⟨p, cmdOf_prim_missing _ i _ p hprim⟩
    · rw [h, finish_fatal] at hfatal
      obtain hf | ⟨p, hprim⟩ := hfatal
      · exact hold hf
      · cases hprim
  · exact absurd hfatal Bool.false_ne_true
  · obtain h | ⟨off, v, -, -, -, h⟩ := access_eq_or_write Config.hw s.blk a
    · exact hold (h ▸ hfatal)
    · obtain hkeep | ⟨-, -, hclear⟩ := writeAt_fatal s.blk off v
      · exact hold (by rw [← hkeep, ← h]; exact hfatal)
      · simp [h, hclear] at hfatal

end Sys2Proof.Machine
end

section
/-! PROOF. The invariant (spec 10_state.md R22, R26, R29; 60_exceptions.md R221, R225 to R228): it holds at
reset, and each operation a step can be keeps it. -/

namespace Sys2Proof.Machine

/-! ## The register map's ranges (10_state.md R22, R32) -/

/-- An offset of a buffer's range is some buffer's. -/
theorem bufAt_isSome_of_range {off : Nat} (buf : Buf) (hlo : bufOffset buf ≤ off)
    (hhi : off < bufOffset buf + bufCap buf) : (bufAt off).isSome = true := by
  have hmem : buf ∈ allBufs := by cases buf <;> decide
  rw [bufAt, List.find?_isSome]
  exact ⟨buf, hmem, by simp [hlo, hhi]⟩

/-- The range of a buffer is word-aligned. -/
theorem buf_aligned (buf : Buf) : bufOffset buf % 4 = 0 ∧ bufCap buf % 4 = 0 := by
  cases buf <;> decide

/-- A buffer that holds an aligned offset holds its whole word. -/
theorem word_in_buf {off : Nat} {buf : Buf} (ht : target off = .buf buf) (halign : off % 4 = 0) :
    bufOffset buf ≤ off ∧ off + 4 ≤ bufOffset buf + bufCap buf := by
  obtain ⟨hlo, hhi⟩ := bufAt_range off buf (bufAt_of_target off buf ht)
  obtain ⟨ho, hc⟩ := buf_aligned buf
  omega

/-- A word of a buffer does not meet OUT (R33). -/
theorem word_outside_out {off : Nat} {buf : Buf} (ht : target off = .buf buf) (halign : off % 4 = 0) :
    off + 4 ≤ outOffset ∨ outOffset + outCap ≤ off := by
  obtain ⟨hlo, hhi⟩ := word_in_buf ht halign
  have h := bufByte_offset_outside_out buf (off - bufOffset buf) (by omega)
  rw [Nat.add_sub_cancel' hlo] at h
  simp only [outOffset, outCap] at h ⊢
  omega

/-! ## Each operation keeps the invariant -/

theorem reset_inv : Block.reset.Inv := by
  constructor
  case outTail => exact fun _ _ _ => rfl
  all_goals decide

/-- The invariant speaks of the memory, the status record without BWE, and OUT_LEN. -/
theorem Block.Inv.of_eq {b b' : Block} (h : b.Inv) (hmem : b'.mem = b.mem := by simp)
    (hbusy : b'.busy = b.busy := by simp) (hdone : b'.done = b.done := by simp)
    (herr : b'.err = b.err := by simp) (hfatal : b'.fatal = b.fatal := by simp)
    (herrcode : b'.errcode = b.errcode := by simp) (herrop : b'.errop = b.errop := by simp)
    (houtLen : b'.outLen = b.outLen := by simp) : b'.Inv := by
  obtain ⟨⟩ := b
  obtain ⟨⟩ := b'
  dsimp only at *
  subst hmem hbusy hdone herr hfatal herrcode herrop houtLen
  exact { h with }

/-- An issue clears the record and OUT (R225). -/
theorem issue_inv {b : Block} (h : b.Inv) (v : Word) : (b.issue v).Inv := by
  constructor
  case memWf => exact clear_wf _ _ _ h.memWf
  case memInBuffers => exact fun c hc => h.memInBuffers c (clear_mem _ _ _ c hc)
  case outTail => exact fun k _ hk => (issue_pending b v).2.2.2.2.2.2 k hk
  all_goals simp

/-- A word written into a buffer stays in the buffers and out of OUT. -/
theorem writeWord_inv {b : Block} (h : b.Inv) {off : Nat} {buf : Buf} (ht : target off = .buf buf)
    (halign : off % 4 = 0) (v : Word) : Block.Inv { b with mem := b.mem.writeWord off v } where
  __ := h
  memWf := writeWord_wf _ _ _ h.memWf
  memInBuffers := by
    intro c hc
    obtain ⟨hlo, hhi⟩ | hc := store_mem _ _ _ c hc
    · have hword := word_in_buf ht halign
      simp only [List.length_cons, List.length_nil] at hhi
      exact .inl (bufAt_isSome_of_range buf (by omega) (by omega))
    · exact h.memInBuffers c hc
  outTail := by
    intro k hk hcap
    have hout := word_outside_out ht halign
    exact (readByte_writeWord_outside _ _ _ v (by omega)).trans (h.outTail k hk hcap)

/-- A result of one of R29's lengths stands in OUT, and the rest of OUT is as the issue left it (R227). -/
theorem completeOk_inv {b : Block} (h : b.Inv) (hb : b.busy = true) {r : Bytes}
    (hr : r.length ∈ [8, 16, 24, 32, 42]) : (b.completeOk r).Inv := by
  obtain ⟨-, herr, -, -, houtLen⟩ := h.pendingClear hb
  have hlen : (b.completeOk r).outLen.toNat = r.length := by
    have hlt : ∀ n ∈ [8, 16, 24, 32, 42], n % 2 ^ 6 = n := by decide
    rw [completeOk_outLen, BitVec.toNat_ofNat, hlt _ hr]
  have hfits : r.length ≤ outCap := by
    have hall : ∀ n ∈ [8, 16, 24, 32, 42], n ≤ outCap := by decide
    exact hall _ hr
  constructor
  case memWf => exact store_wf _ _ _ h.memWf
  case memInBuffers =>
    intro c hc
    obtain ⟨hlo, hhi⟩ | hc := store_mem _ _ _ c hc
    · right
      simp only [inOut, Bool.and_eq_true, decide_eq_true_eq]
      omega
    · exact h.memInBuffers c hc
  case pendingClear => simp
  case errIffCode => exact h.errIffCode
  case codeRange => exact h.codeRange
  case lengthInfo => exact h.lengthInfo
  case primInfo => exact h.primInfo
  case otherInfo => exact h.otherInfo
  case fatalInfo => exact h.fatalInfo
  case outLenValue => rw [hlen]; exact List.mem_cons_of_mem 0 hr
  case errNoResult => simp [herr]
  case recordNeedsDone => simp
  case outTail =>
    intro k hk hcap
    rw [hlen] at hk
    rw [Block.outByte, completeOk_mem, readByte_store_outside _ _ _ _ (by omega)]
    exact h.outTail k (by simp [houtLen]) hcap

/-- The codes of R221, the operand ids of R103 and the primitive ids of R224 are in their ranges. -/
theorem completeError_inv {b : Block} (h : b.Inv) (hb : b.busy = true) {e : CmdError}
    (he : e = .fatal → b.fatal = true) : (b.completeError e).Inv := by
  obtain ⟨-, -, -, -, houtLen⟩ := h.pendingClear hb
  constructor
  case memWf => exact h.memWf
  case memInBuffers => exact h.memInBuffers
  case errIffCode => cases e <;> simp [CmdError.code]
  case codeRange => exact (code_range e).2
  case lengthInfo =>
    cases e with
    | length buf => cases buf <;> simp [CmdError.info, operandId]
    | illegal | prim | fatal => simp [CmdError.code]
  case primInfo =>
    cases e with
    | prim p => cases p <;> simp [CmdError.info, CmdError.setsFatal, primId]
    | illegal | length | fatal => simp [CmdError.code]
  case otherInfo => cases e <;> simp [CmdError.code, CmdError.info]
  case fatalInfo =>
    cases e with
    | fatal => simp [he]
    | illegal | length | prim => simp [CmdError.code]
  case outLenValue => exact h.outLenValue
  case outTail => exact h.outTail
  all_goals simp [houtLen]

/-- However a pending word ends, the invariant stays, as long as a result has one of R29's lengths and the
answer itself is not FATAL. -/
theorem finish_inv {b : Block} (h : b.Inv) (hb : b.busy = true) {r : Except CmdError Bytes}
    (hok : ∀ bytes, r = .ok bytes → bytes.length ∈ [8, 16, 24, 32, 42]) (herr : r ≠ .error .fatal) :
    (b.finish r).Inv := by
  obtain ⟨hf, heq⟩ | ⟨-, bytes, hr, heq⟩ | ⟨-, e, hr, heq⟩ := finish_cases b r
  · exact heq ▸ completeError_inv h hb fun _ => hf
  · exact heq ▸ completeOk_inv h hb (hok bytes hr)
  · exact heq ▸ completeError_inv h hb fun he => absurd (he ▸ hr) herr

theorem cmdOf_ne_fatal (c : Config) (i : Instr) (b : Block) : cmdOf c i b ≠ .error .fatal := by
  intro h
  obtain ⟨buf, he⟩ | ⟨p, he, -⟩ := cmdOf_error c i b _ h
  · cases he
  · cases he

theorem writeAt_inv {b : Block} (h : b.Inv) {off : Nat} (halign : off % 4 = 0) (v : Word) :
    (b.writeAt off v).Inv := by
  obtain ⟨-, -, heq⟩ | ⟨-, -, heq⟩ | ⟨-, -, heq⟩ | ⟨-, -, heq⟩ | ⟨-, -, heq⟩ | ⟨-, buf, -, heq⟩ |
    ⟨-, buf, ht, heq⟩ | heq := writeAt_cases b off v <;> rw [heq]
  · exact h.of_eq
  · exact reset_inv
  · exact h.of_eq
  · exact issue_inv h v
  · exact h.of_eq
  · exact h.of_eq
  · exact writeWord_inv h ht halign v
  · exact h

/-! ## The two statements -/

/-- Settles O49: the reset block has an empty memory and a clear record (`reset_inv`). -/
theorem invariantAtReset : Obligations.InvariantAtReset := reset_inv

/-- Settles O50: of the ends a step can have (`step_cases`), a completion keeps the invariant
(`finish_inv`), since a command's result has its row's length and its errors are LENGTH and PRIM; a reset
establishes it, and an accepted write keeps it (`writeAt_inv`). -/
theorem stepKeepsInvariant : Obligations.StepKeepsInvariant := by
  intro s t hinv hstep
  have hinv : s.blk.Inv := hinv
  suffices h : t.blk.Inv from h
  obtain ⟨rest, -, -, -, hseq⟩ | ⟨rest, -, rfl⟩ | ⟨a, rest, -, -, rfl⟩ := step_cases s t hstep
  · obtain ⟨-, h⟩ | ⟨hb, i, -, h⟩ | ⟨hb, e, -, h⟩ := hseq
    · exact h ▸ hinv
    · have hlen : ∀ r, cmdOf Config.hw i s.blk = .ok r → r.length ∈ [8, 16, 24, 32, 42] :=
        fun r hr => cmdOf_length _ i _ r hr ▸ resultBytes_mem i
      exact h ▸ finish_inv hinv hb hlen (cmdOf_ne_fatal _ i _)
    · exact h ▸ finish_inv hinv hb (by simp) (by simp)
  · exact reset_inv
  · obtain h | ⟨off, v, -, -, halign, h⟩ := access_eq_or_write Config.hw s.blk a
    · exact h.symm ▸ hinv
    · exact h.symm ▸ writeAt_inv hinv halign v

end Sys2Proof.Machine
end

section
/-! PROOF. A canonical memory is its reads (spec 10_state.md R22, R50; the canonical form is log 9's). -/

namespace Sys2Proof.Machine

/-- A canonical memory lists a cell exactly when it reads as that cell says, an unlisted byte apart. -/
theorem mem_iff_readByte {m : Memory} (h : m.wf) (c : Host.Cell) :
    c ∈ m ↔ c.2 ≠ unlistedByte ∧ m.readByte c.1 = c.2 := by
  constructor
  · exact fun hc => ⟨h.2 c hc, readByte_of_mem m h c hc⟩
  · rintro ⟨hne, hread⟩
    have hlisted : ∃ d ∈ m, d.1 = c.1 := by
      by_contra hnone
      push Not at hnone
      exact hne (hread ▸ readByte_of_not_mem m c.1 hnone)
    obtain ⟨d, hd, hfst⟩ := hlisted
    have hsnd : d.2 = c.2 := by rw [← readByte_of_mem m h d hd, hfst, hread]
    exact Prod.ext hfst hsnd ▸ hd

/-- Settles O52: canonical memories that read alike have the same cells (`mem_iff_readByte`), and rising
offsets put these in one order. -/
theorem memoryIsItsReads : Obligations.MemoryIsItsReads := by
  intro m m' hm hm' hread
  have hcells : ∀ c, c ∈ m ↔ c ∈ m' := fun c => by rw [mem_iff_readByte hm, mem_iff_readByte hm', hread]
  have hnodup : ∀ {m : Memory}, m.wf → m.Nodup := fun h => h.1.imp fun hlt heq => hlt.ne (congrArg Prod.fst heq)
  have hperm : m.Perm m' := (List.perm_ext_iff_of_nodup (hnodup hm) (hnodup hm')).2 hcells
  exact hperm.eq_of_pairwise (fun _ _ _ _ hab hba => absurd hba hab.asymm) hm.1 hm'.1

end Sys2Proof.Machine
end

section
/-! PROOF. What a read returns and a write does at every offset of the window (spec 20_memory.md R63 to R66,
10_state.md R22 to R31). The register map is read off once; then a data offset is a word of a buffer or of
OUT, and every other offset has its own line. -/

namespace Sys2Proof.Machine

/-! ## The register map past the registers (R22) -/

theorem exists_buf {p : Buf → Prop} :
    (∃ buf, p buf) ↔ p .pw ∨ p .chal ∨ p .user ∨ p .pchal ∨ p .achal ∨ p .ntresp ∨ p .kin ∨ p .curkey := by
  constructor
  · rintro ⟨buf, h⟩
    cases buf <;> simp [h]
  · rintro (h | h | h | h | h | h | h | h) <;> exact ⟨_, h⟩

theorem bufAt_isSome_iff (off : Nat) :
    (bufAt off).isSome = true ↔ (0x100 ≤ off ∧ off < 0x138) ∨ (0x140 ≤ off ∧ off < 0x160) ∨
      (0x200 ≤ off ∧ off < 0x300) ∨ (0x400 ≤ off ∧ off < 0x500) ∨ (0x800 ≤ off ∧ off < 0xA00) := by
  have hranges : (bufAt off).isSome = true ↔ ∃ buf, bufOffset buf ≤ off ∧ off < bufOffset buf + bufCap buf := by
    constructor
    · intro h
      obtain ⟨buf, hbuf⟩ := Option.isSome_iff_exists.1 h
      exact ⟨buf, bufAt_range off buf hbuf⟩
    · rintro ⟨buf, hlo, hhi⟩
      exact bufAt_isSome_of_range buf hlo hhi
  rw [hranges, exists_buf]
  simp only [bufOffset, bufCap]
  omega

theorem inOut_iff (off : Nat) : inOut off = true ↔ 0x180 ≤ off ∧ off < 0x1B0 := by
  simp only [inOut, Bool.and_eq_true, decide_eq_true_eq]
  exact Iff.rfl

/-- Past the registers the map asks only which range holds the offset. -/
theorem target_past_registers (off : Nat) (h : 0x044 ≤ off) :
    (∃ buf, bufAt off = some buf ∧ target off = .buf buf) ∨
    (bufAt off = none ∧ inOut off = true ∧ target off = .out) ∨
    (bufAt off = none ∧ inOut off = false ∧ target off = .reserved) := by
  unfold target
  split
  case h_18 =>
    cases hb : bufAt off with
    | some buf => exact .inl ⟨buf, rfl, rfl⟩
    | none => cases ho : inOut off <;> simp
  all_goals omega

theorem target_of_buffer_range {off : Nat} (h : (bufAt off).isSome = true) : ∃ buf, target off = .buf buf := by
  have hlo : 0x044 ≤ off := by rw [bufAt_isSome_iff] at h; omega
  obtain ⟨buf, -, ht⟩ | ⟨hnone, -⟩ | ⟨hnone, -⟩ := target_past_registers off hlo
  · exact ⟨buf, ht⟩
  · simp [hnone] at h
  · simp [hnone] at h

theorem target_of_reserved_range {off : Nat} (hlo : 0x044 ≤ off) (hbuf : ¬ (bufAt off).isSome = true)
    (hout : ¬ inOut off = true) : target off = .reserved := by
  obtain ⟨buf, hsome, -⟩ | ⟨-, ho, -⟩ | ⟨-, -, ht⟩ := target_past_registers off hlo
  · simp [hsome] at hbuf
  · exact absurd ho hout
  · exact ht

theorem target_of_out_range {off : Nat} (h : inOut off = true) : target off = .out := by
  have hrange := (inOut_iff off).1 h
  obtain ⟨buf, hsome, -⟩ | ⟨-, -, ht⟩ | ⟨-, hnot, -⟩ := target_past_registers off (by omega)
  · have hbuf := (bufAt_isSome_iff off).1 (by simp [hsome])
    omega
  · exact ht
  · simp [h] at hnot

/-! ## Fields packed into a word (R24 to R26) -/

theorem bit_toNat (f : Bool) : (bit f).toNat = f.toNat := by cases f <;> rfl

/-- A field put above a word that ends below it adds its value at its place. -/
theorem or_shiftLeft_toNat (w x : Word) (k n : Nat) (hw : w.toNat < 2 ^ k) (hx : x.toNat < 2 ^ n)
    (hk : k + n ≤ 32) :
    (w ||| x <<< k).toNat = w.toNat + 2 ^ k * x.toNat ∧ (w ||| x <<< k).toNat < 2 ^ (k + n) := by
  have hmul : 2 ^ k * x.toNat + 2 ^ k ≤ 2 ^ (k + n) := by
    rw [Nat.pow_add, ← Nat.mul_succ]
    exact Nat.mul_le_mul_left _ hx
  have hpow : 2 ^ (k + n) ≤ 2 ^ 32 := Nat.pow_le_pow_right (by decide) hk
  have heq : (w ||| x <<< k).toNat = w.toNat + 2 ^ k * x.toNat := by
    rw [BitVec.toNat_or, BitVec.toNat_shiftLeft, Nat.shiftLeft_eq, Nat.mul_comm,
      Nat.mod_eq_of_lt (by omega), Nat.or_comm, ← Nat.two_pow_add_eq_or_of_lt hw, Nat.add_comm]
  exact ⟨heq, by omega⟩

theorem bit_toNat_lt (f : Bool) : (bit f).toNat < 2 ^ 1 := by cases f <;> decide

theorem nibble_toNat (x : BitVec 4) : (x.setWidth 32).toNat = x.toNat := by
  rw [BitVec.toNat_setWidth]
  omega

/-- CAP1 as a number (R25). -/
theorem cap1Word_toNat (c : Config) : (cap1Word c).toNat = 0x100 + 0x10000 * c.avail.md4.toNat
    + 0x20000 * c.avail.md5.toNat + 0x40000 * c.avail.sha1.toNat + 0x80000 * c.avail.des.toNat := by
  unfold cap1Word
  obtain ⟨md4, md5, sha1, des⟩ := c.avail
  revert md4 md5 sha1 des
  decide

/-- STATUS as a number (R26). -/
theorem statusWord_toNat (b : Block) : b.statusWord.toNat = b.busy.toNat + 2 * b.done.toNat + 4 * b.err.toNat
    + 8 * b.fatal.toNat + 16 * b.bwe.toNat + 256 * b.errcode.toNat + 65536 * b.errop.toNat := by
  obtain ⟨h1, l1⟩ := or_shiftLeft_toNat (bit b.busy) (bit b.done) 1 1 (bit_toNat_lt _) (bit_toNat_lt _) (by decide)
  obtain ⟨h2, l2⟩ := or_shiftLeft_toNat _ (bit b.err) 2 1 l1 (bit_toNat_lt _) (by decide)
  obtain ⟨h3, l3⟩ := or_shiftLeft_toNat _ (bit b.fatal) 3 1 l2 (bit_toNat_lt _) (by decide)
  obtain ⟨h4, l4⟩ := or_shiftLeft_toNat _ (bit b.bwe) 4 1 l3 (bit_toNat_lt _) (by decide)
  obtain ⟨h5, l5⟩ := or_shiftLeft_toNat _ (b.errcode.setWidth 32) 8 4 (l4.trans (by decide))
    (nibble_toNat b.errcode ▸ b.errcode.isLt) (by decide)
  obtain ⟨h6, -⟩ := or_shiftLeft_toNat _ (b.errop.setWidth 32) 16 4 (l5.trans (by decide))
    (nibble_toNat b.errop ▸ b.errop.isLt) (by decide)
  rw [Block.statusWord, h6, h5, h4, h3, h2, h1]
  simp only [bit_toNat, nibble_toNat, Nat.reducePow]

/-! ## Reads (R64) -/

theorem readAt_word (c : Config) (b : Block) (off : Nat) (h : (bufAt off).isSome = true ∨ inOut off = true) :
    b.readAt c off = b.mem.readWord off := by
  obtain h | h := h
  · obtain ⟨buf, ht⟩ := target_of_buffer_range h
    simp only [Block.readAt, ht]
  · simp only [Block.readAt, target_of_out_range h]

theorem readAt_reserved (c : Config) (b : Block) (off : Nat) (hlo : 0x044 ≤ off)
    (hbuf : ¬ (bufAt off).isSome = true) (hout : ¬ inOut off = true) : b.readAt c off = 0 := by
  simp only [Block.readAt, target_of_reserved_range hlo hbuf hout]

/-- A word of OUT is 0 while a command is pending, since the issue cleared OUT (R64's own inference). -/
theorem readWord_out_of_pending {b : Block} (hp : b.pending) {off : Nat} (hlo : 0x180 ≤ off)
    (hhi : off + 4 ≤ 0x1B0) : b.mem.readWord off = 0 := by
  obtain ⟨-, -, -, -, -, -, hout⟩ := hp
  have hbyte : ∀ x, 0x180 ≤ x → x < 0x1B0 → b.mem.readByte x = 0 := by
    intro x hlo hhi
    have h := hout (x - 0x180) (by unfold outCap; omega)
    rwa [Block.outByte, outOffset, Nat.add_sub_cancel' hlo] at h
  rw [Memory.readWord, hbyte off (by omega) (by omega), hbyte (off + 1) (by omega) (by omega),
    hbyte (off + 2) (by omega) (by omega), hbyte (off + 3) (by omega) (by omega)]
  rfl

/-- Settles O45: the step of a read answers `readAt` (`step_read`); a register's line is its case of the map,
a data offset reads its word, whose lanes are its bytes (`readWord_lane`), and the rest reads 0. -/
theorem readTable : Obligations.ReadTable := by
  intro s off rest hoff halign hp
  refine ⟨_, _, step_read s off rest hoff halign hp, rfl, rfl, rfl, ?blockId, ?rev, ?cap0, ?cap1, ?ctrl, ?status,
    ?cmd, ?outLen, ?id, ?pwLen, ?chLen, ?userLen, ?pcLen, ?acLen, ?nrLen, ?kinLen, ?ckLen, ?data, ?reserved,
    ?pending⟩
  case cap1 =>
    rintro rfl
    rw [readAt_cap1, cap1Word_toNat]
  case status =>
    rintro rfl
    exact statusWord_toNat s.blk
  case outLen =>
    rintro rfl
    exact BitVec.toNat_setWidth_of_le (by decide)
  case id =>
    rintro rfl
    exact BitVec.toNat_setWidth_of_le (by decide)
  case pwLen | chLen | userLen | pcLen | acLen | nrLen | kinLen | ckLen =>
    rintro rfl
    exact BitVec.toNat_setWidth_of_le (by decide)
  case data =>
    intro hrange i hi
    have hdata : (bufAt off).isSome = true ∨ inOut off = true := by
      rw [bufAt_isSome_iff, inOut_iff]
      omega
    rw [readAt_word _ _ off hdata]
    exact readWord_lane _ off i hi
  case reserved =>
    intro hrange
    exact readAt_reserved _ _ off (by omega) (by rw [bufAt_isSome_iff]; omega) (by rw [inOut_iff]; omega)
  case pending =>
    rintro hpend (⟨hlo, hhi⟩ | rfl)
    · rw [readAt_word _ _ off (.inr ((inOut_iff off).2 ⟨hlo, hhi⟩))]
      exact readWord_out_of_pending hpend hlo (by omega)
    · obtain ⟨-, -, -, -, -, hlen, -⟩ := hpend
      exact congrArg (BitVec.setWidth 32) hlen
  all_goals
    rintro rfl
    rfl

/-! ## Writes while BUSY = 0 (R65) -/

theorem writeAt_idle_buf (b : Block) (off : Nat) (v : Word) (hb : b.busy = false) {buf : Buf}
    (ht : target off = .buf buf) : b.writeAt off v = { b with mem := b.mem.writeWord off v } := by
  simp [Block.writeAt, hb, ht]

/-- A write to an offset that takes none: an identity register, OUT_LEN, OUT, or a reserved offset (R66). -/
theorem writeAt_ignored (b : Block) (off : Nat) (v : Word) (hb : b.busy = false)
    (ht : target off ∈ [Target.blockId, .rev, .cap0, .cap1, .outLen, .out, .reserved]) : b.writeAt off v = b := by
  simp only [List.mem_cons, List.not_mem_nil, or_false] at ht
  obtain h | h | h | h | h | h | h := ht <;> simp [Block.writeAt, hb, h]

theorem writeAt_idle_status (b : Block) (v : Word) (hb : b.busy = false) :
    b.writeAt 0x014 v = b.writeStatus v := by
  have ht : target 0x014 = .status := rfl
  simp [Block.writeAt, hb, ht]

theorem writeAt_idle_cmd (b : Block) (v : Word) (hb : b.busy = false) : b.writeAt 0x018 v = b.issue v := by
  have ht : target 0x018 = .cmd := rfl
  simp [Block.writeAt, hb, ht]

theorem writeAt_idle_id (b : Block) (v : Word) (hb : b.busy = false) :
    b.writeAt 0x020 v = { b with id := v.setWidth 8 } := by
  have ht : target 0x020 = .id := rfl
  simp [Block.writeAt, hb, ht]

theorem target_lenOffset (buf : Buf) : target (lenOffset buf) = .len buf := by cases buf <;> rfl

theorem writeAt_idle_len (b : Block) (buf : Buf) (v : Word) (hb : b.busy = false) :
    b.writeAt (lenOffset buf) v = b.setLen buf (v.setWidth 16) := by
  simp [Block.writeAt, hb, target_lenOffset]

/-- Settles O38: the step is a write to CMD, which issues (`writeAt_idle_cmd`); what an issue leaves is said
by its field lemmas, `issue_pending` and `readByte_clear`. -/
theorem cmdWriteIssues : Obligations.CmdWriteIssues := by
  intro s v rest hb hp
  have hstep := step_write s 0x018 v rest (by decide) (by decide) hp
  rw [writeAt_idle_cmd s.blk v hb] at hstep
  refine ⟨_, hstep, rfl, rfl, rfl, issue_pending s.blk v, rfl, rfl, rfl, issue_lenOf s.blk v, fun x hx => ?_⟩
  have hout := inOut_false x hx
  rw [issue_mem, readByte_clear, if_neg (by omega)]

/-- Settles O46: the step is a write (`step_write`), and each kind of offset has its line of R65: STATUS, ID,
the length registers (`writeAt_idle_len`), a buffer's word (`writeAt_idle_buf`), and the offsets that take
none (`writeAt_ignored`). -/
theorem writeTable : Obligations.WriteTable := by
  intro s off v rest hb hoff halign hp
  have hlen : ∀ buf, off = lenOffset buf → s.blk.writeAt off v = s.blk.setLen buf (v.extractLsb' 0 16) := by
    rintro buf rfl
    rw [writeAt_idle_len _ _ _ hb, BitVec.setWidth_eq_extractLsb' (by decide)]
  refine ⟨_, step_write s off v rest hoff halign hp, rfl, rfl, ?status, ?id, hlen .pw, hlen .chal, hlen .user,
    hlen .pchal, hlen .achal, hlen .ntresp, hlen .kin, hlen .curkey, ?data, ?ignored⟩
  case status =>
    rintro rfl
    rw [writeAt_idle_status _ _ hb, Block.writeStatus]
    split
    · rfl
    · rfl
  case id =>
    rintro rfl
    rw [writeAt_idle_id _ _ hb, BitVec.setWidth_eq_extractLsb' (by decide)]
  case data =>
    intro hrange
    obtain ⟨buf, ht⟩ := target_of_buffer_range ((bufAt_isSome_iff off).2 hrange)
    rw [writeAt_idle_buf _ _ _ hb ht]
    exact ⟨rfl, fun i hi => readByte_writeWord_lane _ off i v hi,
      fun x hx => readByte_writeWord_outside _ off x v hx⟩
  case ignored =>
    intro hrange
    apply writeAt_ignored _ _ _ hb
    by_cases hlo : 0x044 ≤ off
    · have hbuf : ¬ (bufAt off).isSome = true := by rw [bufAt_isSome_iff]; omega
      by_cases hout : inOut off = true
      · simp [target_of_out_range hout]
      · simp [target_of_reserved_range hlo hbuf hout]
    · have hregister : off = 0x000 ∨ off = 0x004 ∨ off = 0x008 ∨ off = 0x00C ∨ off = 0x01C := by omega
      obtain rfl | rfl | rfl | rfl | rfl := hregister <;> decide

/-- Settles O47: the first step writes the word (`writeAt_idle_buf`), the second reads it back
(`readWord_writeWord`). -/
theorem readReturnsLastWrite : Obligations.ReadReturnsLastWrite := by
  intro s buf j v rest hb hj hp
  obtain ⟨hoff, hcap⟩ := buf_aligned buf
  have hlt : bufOffset buf + 4 * j < 4096 := by
    have hend : bufOffset buf + bufCap buf ≤ 4096 := by cases buf <;> decide
    omega
  have hdata := bufAt_isSome_of_range (off := bufOffset buf + 4 * j) buf (by omega) (by omega)
  obtain ⟨buf', ht⟩ := target_of_buffer_range hdata
  have hwrite := step_write s _ v _ hlt (by omega) hp
  rw [writeAt_idle_buf _ _ _ hb ht] at hwrite
  rw [run_succ 1 s _ hwrite, run_succ 0 _ _ (step_read _ _ rest hlt (by omega) rfl),
    readAt_word _ _ _ (.inl hdata), readWord_writeWord]
  exact ⟨_, rfl, rfl, rfl⟩

/-! ## The record while BUSY = 0 (R71, 60_exceptions.md R231) -/

/-- `b'` is idle and holds the record and the result of `b`. -/
def Block.SameRecord (b b' : Block) : Prop :=
  (∀ k, k < 48 → b'.outByte k = b.outByte k) ∧ b'.outLen = b.outLen ∧ b'.done = b.done ∧ b'.err = b.err ∧
    b'.errcode = b.errcode ∧ b'.errop = b.errop ∧ b'.busy = false

theorem sameRecord_refl {b : Block} (hb : b.busy = false) : b.SameRecord b :=
  ⟨fun _ _ => rfl, rfl, rfl, rfl, rfl, rfl, hb⟩

/-- A write to an idle block that is neither an issue nor a soft reset. -/
theorem writeAt_sameRecord {b : Block} (hb : b.busy = false) {off : Nat} {v : Word} (halign : off % 4 = 0)
    (hcmd : off ≠ 0x018) (hctrl : off = 0x010 → v.getLsbD 0 = false) : b.SameRecord (b.writeAt off v) := by
  obtain ⟨hbusy, -, -⟩ | ⟨ht, hv, -⟩ | ⟨-, -, h⟩ | ⟨-, ht, -⟩ | ⟨-, -, h⟩ | ⟨-, buf, -, h⟩ | ⟨-, buf, ht, h⟩ | h :=
    writeAt_cases b off v
  · simp [hb] at hbusy
  · exact absurd hv (by rw [hctrl (target_ctrl off ht)]; exact Bool.false_ne_true)
  · rw [h]
    simp [Block.SameRecord, Block.outByte, hb]
  · exact absurd (target_cmd off ht) hcmd
  · rw [h]
    exact sameRecord_refl hb
  · rw [h]
    simp [Block.SameRecord, Block.outByte, hb]
  · have hout := word_outside_out ht halign
    rw [h]
    refine ⟨fun k hk => readByte_writeWord_outside _ _ _ _ ?_, rfl, rfl, rfl, rfl, rfl, hb⟩
    simp only [outOffset, outCap] at hout ⊢
    omega
  · rw [h]
    exact sameRecord_refl hb

/-- Settles O48: an idle block's turn does nothing, a reset is excluded, and a host access is a write that
keeps the record (`writeAt_sameRecord`). -/
theorem finishedRecordStays : Obligations.FinishedRecordStays := by
  intro s t hb hstep hreset hcmd hctrl
  suffices h : s.blk.SameRecord t.blk from h
  obtain ⟨rest, -, -, -, hseq⟩ | ⟨rest, hp, -⟩ | ⟨a, rest, hp, -, rfl⟩ := step_cases s t hstep
  · obtain ⟨-, h⟩ | ⟨hbusy, -⟩ | ⟨hbusy, -⟩ := hseq
    · rw [h]
      exact sameRecord_refl hb
    · simp [hb] at hbusy
    · simp [hb] at hbusy
  · exact absurd hp (hreset rest)
  · obtain h | ⟨off, v, rfl, -, halign, h⟩ := access_eq_or_write Config.hw s.blk a
    · rw [h]
      exact sameRecord_refl hb
    · rw [h]
      refine writeAt_sameRecord hb halign ?_ ?_
      · rintro rfl
        exact hcmd v rest hp
      · rintro rfl
        exact hctrl v rest hp

end Sys2Proof.Machine
end

section
/-! PROOF. What a command reads and what its outcome depends on (spec 00_scope.md R12,
40_stream_and_parity.md R101): the answer sees ID, the length registers and the bytes within them, and the
completion of a pending command adds FATAL alone. -/

namespace Sys2Proof.Machine

/-! ## What a command reads -/

/-- `b` and `b'` hold the same ID, length registers and operand bytes within the lengths: all that a command
may read (00_scope.md R12, 40_stream_and_parity.md R101). -/
structure Block.ReadsAlike (b b' : Block) : Prop where
  id : b.id = b'.id
  lens : ∀ buf, b.lenOf buf = b'.lenOf buf
  bytes : ∀ buf k, k < (b.lenOf buf).toNat → k < bufCap buf → b.bufByte buf k = b'.bufByte buf k

section
variable {b b' : Block} (h : b.ReadsAlike b')
include h

theorem Block.ReadsAlike.load {buf : Buf} {n : Nat} (hlen : n ≤ (b.lenOf buf).toNat) (hcap : n ≤ bufCap buf) :
    b.mem.load (bufOffset buf) n = b'.mem.load (bufOffset buf) n :=
  load_congr _ _ _ _ fun k hk => h.bytes buf k (by omega) (by omega)

theorem Block.ReadsAlike.need (buf : Buf) (n : Nat) : b.need buf n = b'.need buf n := by
  unfold Block.need
  rw [← h.lens]
  split
  · rfl
  · rw [h.load (by omega) (by omega)]

theorem Block.ReadsAlike.var (buf : Buf) : b.var buf = b'.var buf := by
  unfold Block.var
  rw [← h.lens]
  split
  · rfl
  · rw [h.load le_rfl (by omega)]

theorem Block.ReadsAlike.currentKey (ckp : Bool) (n : Nat) : b.currentKey ckp n = b'.currentKey ckp n := by
  rw [Block.currentKey, Block.currentKey, h.need]

/-- A command's pseudocode looks at the block only through its checks, and at ID. -/
theorem Block.ReadsAlike.cmdOf (c : Config) (i : Instr) : cmdOf c i b = cmdOf c i b' := by
  cases i <;>
    simp only [Machine.cmdOf, cmdPexp, cmdChapResp, cmdLmHash, cmdNtHash, cmdNtHashHash, cmdV1Chresp,
      cmdLmChresp, cmdNtChresp, cmdGetStartKey, cmdGetKey, cmdGetKey40, cmdGetKey56, cmdGetKey128,
      cmdChallengeHash, cmdGenNtResp, cmdGenAuthResp, cmdGetMasterKey, cmdGetAsymStartKey, cmdGetSessionKeys64,
      cmdGetSessionKeys128, h.need, h.var, h.currentKey, h.id]

theorem Block.ReadsAlike.wordAnswer (c : Config) (w : Word) : wordAnswer c w b = wordAnswer c w b' := by
  simp only [Machine.wordAnswer, h.cmdOf]

end

/-! ## What an outcome is -/

/-- `b` and `b'` hold the same OUT, OUT_LEN, ERR, ERRCODE, ERROP and FATAL. -/
structure Block.SameOutcome (b b' : Block) : Prop where
  out : ∀ k, k < 48 → b.outByte k = b'.outByte k
  outLen : b.outLen = b'.outLen
  err : b.err = b'.err
  errcode : b.errcode = b'.errcode
  errop : b.errop = b'.errop
  fatal : b.fatal = b'.fatal

/-- An issue leaves one and the same record and OUT (60_exceptions.md R225). -/
theorem sameOutcome_of_pending {b b' : Block} (hp : b.pending) (hp' : b'.pending) (hf : b.fatal = b'.fatal) :
    b.SameOutcome b' := by
  obtain ⟨-, -, herr, hcode, hinfo, hlen, hout⟩ := hp
  obtain ⟨-, -, herr', hcode', hinfo', hlen', hout'⟩ := hp'
  exact ⟨fun k hk => (hout k hk).trans (hout' k hk).symm, hlen.trans hlen'.symm, herr.trans herr'.symm,
    hcode.trans hcode'.symm, hinfo.trans hinfo'.symm, hf⟩

/-- OUT after a success: the result, and past it what stood there. -/
theorem completeOk_outByte (b : Block) (r : Bytes) (k : Nat) :
    (b.completeOk r).outByte k = r.getD k (b.outByte k) := by
  rw [Block.outByte, completeOk_mem]
  by_cases h : k < r.length
  · rw [readByte_store_inside _ _ _ _ h, List.getD_eq_getElem _ _ h]
  · rw [readByte_store_outside _ _ _ _ (by omega), List.getD_eq_default _ _ (by omega)]
    rfl

section
variable {b b' : Block} (h : b.SameOutcome b')
include h

theorem Block.SameOutcome.completeError (e : CmdError) : (b.completeError e).SameOutcome (b'.completeError e) where
  out := h.out
  outLen := h.outLen
  err := rfl
  errcode := rfl
  errop := rfl
  fatal := congrArg (· || e.setsFatal) h.fatal

theorem Block.SameOutcome.completeOk (r : Bytes) : (b.completeOk r).SameOutcome (b'.completeOk r) where
  out k hk := by rw [completeOk_outByte, completeOk_outByte, h.out k hk]
  outLen := rfl
  err := h.err
  errcode := h.errcode
  errop := h.errop
  fatal := h.fatal

/-- One answer gives one outcome. -/
theorem Block.SameOutcome.finish (r : Except CmdError Bytes) : (b.finish r).SameOutcome (b'.finish r) := by
  unfold Block.finish
  rw [← h.fatal]
  split
  · exact h.completeError .fatal
  · cases r with
    | ok bytes => exact h.completeOk bytes
    | error e => exact h.completeError e

end

/-- Settles O37: the two states give one answer (`Block.ReadsAlike.cmdOf`), and one answer gives one outcome
(`Block.SameOutcome.finish`). -/
theorem commandReadsOnlyItsOperands : Obligations.CommandReadsOnlyItsOperands := by
  intro i s1 s2 hp1 hp2 hf hid hlens hbytes
  have hreads : s1.blk.ReadsAlike s2.blk := ⟨hid, hlens, hbytes⟩
  have hout := (sameOutcome_of_pending hp1 hp2 hf).finish (cmdOf Config.hw i s1.blk)
  refine ⟨_, _, exec_eq_complete i s1, exec_eq_complete i s2, ?_⟩
  rw [← hreads.cmdOf]
  exact ⟨hout.out, hout.outLen, hout.err, hout.errcode, hout.errop, hout.fatal⟩

end Sys2Proof.Machine
end

section
/-! PROOF. Runs (spec 70_reset_and_hazards.md R253 to R259, 30_encoding.md R88): what a list of host accesses
does step by step, while a command is pending and while a LOADB is written. -/

namespace Sys2Proof.Machine

/-! ## Ports without bus errors -/

/-- A turn always answers, and takes nothing from the port. -/
theorem sequencerTurn_next (s : State) : ∃ t, sequencerTurn s = .next t ∧ t.port = s.port := by
  cases hb : s.blk.busy with
  | true => exact ⟨_, sequencerTurn_busy s hb, rfl⟩
  | false => exact ⟨_, sequencerTurn_idle s hb, rfl⟩

/-- The port answers an access without a bus error, so the host's step goes on. -/
theorem step_access_clean (s : State) (a : Access) (rest : List PortEvent) (hp : s.port = .access a :: rest)
    (ha : a.clean Config.hw) : ∃ t, step s = .next t ∧ t.port = rest := by
  obtain ⟨addr, width, op⟩ := a
  unfold Access.clean at ha
  cases ho : windowOffset Config.hw addr with
  | none => exact ⟨_, step_of_access_notSelected s _ rest _ hp (access_outside _ s.blk _ ho), rfl⟩
  | some off =>
    obtain ⟨rfl, hlt⟩ := windowOffset_some _ _ _ ho
    simp only [ho] at ha
    obtain ⟨rfl, halign⟩ := ha
    cases op with
    | read => exact ⟨_, step_read s off rest hlt halign hp, rfl⟩
    | write v => exact ⟨_, step_write s off v rest hlt halign hp, rfl⟩

/-- Settles O53: each kind of event at the head of the port answers and leaves the rest of the list, which is
clean again. -/
theorem cleanPortNeverFaults : Obligations.CleanPortNeverFaults := by
  intro s hclean
  have htail : ∀ {e rest}, s.port = e :: rest → portClean Config.hw rest :=
    fun hp a ha => hclean a (hp ▸ List.mem_cons_of_mem _ ha)
  cases hp : s.port with
  | nil =>
    obtain ⟨t, ht, hport⟩ := sequencerTurn_next s
    exact ⟨t, by rw [step_port_nil s hp, ht], hport ▸ hclean⟩
  | cons e rest =>
    cases e with
    | sequencer =>
      obtain ⟨t, ht, hport⟩ := sequencerTurn_next { s with port := rest }
      exact ⟨t, by rw [step_port_sequencer s rest hp, ht], hport ▸ htail hp⟩
    | hardReset => exact ⟨_, step_port_hardReset s rest hp, htail hp⟩
    | access a =>
      obtain ⟨t, ht, hport⟩ := step_access_clean s a rest hp (hclean a (by simp [hp]))
      exact ⟨t, ht, hport ▸ htail hp⟩

/-! ## A pending command under host accesses (R257, R259) -/

/-- A run may be cut after its first `m` steps. -/
theorem run_add (m n : Nat) (s t : State) (h : core.run m s = .next t) : core.run (m + n) s = core.run n t := by
  induction m generalizing s with
  | zero =>
    cases h
    rw [Nat.zero_add]
  | succ m ih =>
    have hstep : ∃ u, step s = .next u := by
      cases hu : step s with
      | next u => exact ⟨u, rfl⟩
      | fault r | refused r =>
        have hu : core.step s = _ := hu
        simp only [Host.Core.run, hu] at h
        cases h
    obtain ⟨u, hu⟩ := hstep
    rw [run_succ m s u hu] at h
    rw [Nat.succ_add, run_succ _ s u hu, ih u h]

/-- An access that neither faults nor resets. -/
def Access.harmless (c : Config) (a : Access) : Prop :=
  a.clean c ∧ ∀ v, a.op = .write v → windowOffset c a.addr = some 0x010 → v.getLsbD 0 = false

/-- While BUSY = 1, any number of such accesses changes nothing but BWE. -/
theorem run_accesses_busy (accesses : List Access) (s : State) (rest : List PortEvent) (hb : s.blk.busy = true)
    (hp : s.port = accesses.map .access ++ rest) (ha : ∀ a ∈ accesses, a.harmless Config.hw) :
    ∃ t, core.run accesses.length s = .next t ∧ t.port = rest ∧ t.blk = { s.blk with bwe := t.blk.bwe } := by
  induction accesses generalizing s with
  | nil => exact ⟨s, rfl, hp, rfl⟩
  | cons a accesses ih =>
    obtain ⟨⟨hclean, hreset⟩, ha⟩ := List.forall_mem_cons.1 ha
    obtain ⟨u, hu, huport, hublk⟩ := step_access_busy s a _ hp hclean hb hreset
    obtain ⟨t, ht, htport, htblk⟩ := ih u (by rw [hublk]; exact hb) huport ha
    refine ⟨t, by rw [List.length_cons, run_succ _ s u hu, ht], htport, ?_⟩
    rw [hublk] at htblk
    exact htblk

/-! ## A completion does not see BWE -/

theorem readsAlike_bwe (b : Block) (x : Bool) : Block.ReadsAlike { b with bwe := x } b :=
  ⟨rfl, fun buf => by cases buf <;> rfl, fun _ _ _ _ => rfl⟩

theorem finish_with_bwe (b : Block) (x : Bool) (r : Except CmdError Bytes) :
    Block.finish { b with bwe := x } r = { b.finish r with bwe := x } := by
  unfold Block.finish
  split
  · rfl
  · cases r <;> rfl

/-- The run over harmless accesses and the sequencer's turn ends as the turn would have ended at once, but
for BWE. -/
theorem run_accesses_turn (accesses : List Access) (s : State) (rest : List PortEvent) (hb : s.blk.busy = true)
    (hp : s.port = accesses.map .access ++ .sequencer :: rest) (ha : ∀ a ∈ accesses, a.harmless Config.hw) :
    ∃ t, core.run (accesses.length + 1) s = .next t ∧ t.port = rest ∧
      t.blk = { s.blk.finish (wordAnswer Config.hw s.blk.cmd s.blk) with bwe := t.blk.bwe } := by
  obtain ⟨u, hu, huport, hublk⟩ := run_accesses_busy accesses s _ hb hp ha
  have hubusy : u.blk.busy = true := by rw [hublk]; exact hb
  have hturn : step u = .next (State.complete { u with port := rest } (wordAnswer Config.hw u.blk.cmd u.blk)) := by
    rw [step_port_sequencer u rest huport]
    exact sequencerTurn_busy { u with port := rest } hubusy
  refine ⟨_, by rw [run_add _ 1 s u hu, run_succ 0 u _ hturn]; rfl, rfl, ?_⟩
  rw [complete_blk, finish_bwe]
  dsimp only
  rw [hublk, (readsAlike_bwe s.blk _).wordAnswer, finish_with_bwe]

/-- Settles O54: by `run_accesses_turn` the run ends in the completion `exec` gives, but for BWE. -/
theorem latencyDoesNotChangeTheOutcome : Obligations.LatencyDoesNotChangeTheOutcome := by
  intro s i accesses rest hb hi hp hclean hreset
  obtain ⟨t, ht, htport, htblk⟩ :=
    run_accesses_turn accesses s rest hb hp fun a ha => ⟨hclean a ha, hreset a ha⟩
  rw [wordAnswer_of_decode _ _ hi] at htblk
  exact ⟨t, _, ht, exec_eq_complete i s, htblk, by rw [htblk]; exact finish_busy _ _, htport⟩

/-- Settles O58: by `run_accesses_turn` the run ends in the completion of ILLEGAL (`wordAnswer_of_unlisted`),
which FATAL = 1 overrides. -/
theorem latencyDoesNotSaveAnUnlistedWord : Obligations.LatencyDoesNotSaveAnUnlistedWord := by
  intro s accesses rest hb hw hp hclean hreset
  obtain ⟨t, ht, htport, htblk⟩ :=
    run_accesses_turn accesses s rest hb hp fun a ha => ⟨hclean a ha, hreset a ha⟩
  rw [wordAnswer_of_unlisted _ _ hw] at htblk
  refine ⟨t, ht, htport, htblk.trans ?_⟩
  cases hf : s.blk.fatal <;>
    simp [Block.finish, hf, Block.completeError, CmdError.code, CmdError.info, CmdError.setsFatal]

/-! ## WAIT (R88, R256) -/

theorem statusWord_getLsbD_busy (b : Block) : b.statusWord.getLsbD 0 = b.busy := by
  cases h : b.busy <;> simp [Block.statusWord, bit, h]

theorem statusWord_getLsbD_done (b : Block) : b.statusWord.getLsbD 1 = b.done := by
  cases hd : b.done <;> cases hb : b.busy <;> simp [Block.statusWord, bit, hd, hb]

/-- The poll of STATUS. -/
def poll (c : Config) : Access := ⟨c.base + 0x014, 32, .read⟩

theorem poll_harmless (c : Config) : (poll c).harmless c := by
  have hdecode : windowOffset c (poll c).addr = some 0x014 := windowOffset_base c 0x014 (by decide)
  constructor
  · simp only [Access.clean, hdecode]
    exact ⟨rfl, trivial⟩
  · intro v hop
    cases hop

theorem waitEvents_eq (c : Config) (polls : Nat) :
    waitEvents c polls = (List.replicate polls (poll c)).map .access ++ .sequencer :: [.access (poll c)] := by
  simp [waitEvents, portLines, hostAccess, poll]

/-- Settles O55: the polls change nothing, the turn completes the word (`run_accesses_turn`), and the last
poll reads BUSY = 0 and DONE = 1. -/
theorem waitEndsWithDone : Obligations.WaitEndsWithDone := by
  intro s polls hb hp
  rw [waitEvents_eq] at hp
  have hpolls : ∀ a ∈ List.replicate polls (poll Config.hw), a.harmless Config.hw := fun a ha =>
    List.eq_of_mem_replicate ha ▸ poll_harmless Config.hw
  obtain ⟨t, ht, htport, htblk⟩ := run_accesses_turn _ s _ hb hp hpolls
  rw [List.length_replicate] at ht
  have hread := step_read t 0x014 [] (by decide) (by decide) htport
  refine ⟨_, t.blk.statusWord, by rw [run_add (polls + 1) 1 s t ht, run_succ 0 t _ hread]; rfl, rfl, ?_, ?_, rfl⟩
  · rw [statusWord_getLsbD_busy, htblk]
    exact finish_busy _ _
  · rw [statusWord_getLsbD_done, htblk]
    exact finish_done _ _

/-! ## LOADB (R88, R63) -/

/-- The bytes of a list of words, by lanes (R63). -/
def wordBytes (ws : List Word) : Bytes := ws.flatMap fun v => [lane v 0, lane v 1, lane v 2, lane v 3]

theorem wordBytes_length (ws : List Word) : (wordBytes ws).length = 4 * ws.length := by
  simp [wordBytes, Nat.mul_comm]

theorem lanes_wordOfLanes (b0 b1 b2 b3 : Byte) :
    lane (wordOfLanes b0 b1 b2 b3) 0 = b0 ∧ lane (wordOfLanes b0 b1 b2 b3) 1 = b1 ∧
    lane (wordOfLanes b0 b1 b2 b3) 2 = b2 ∧ lane (wordOfLanes b0 b1 b2 b3) 3 = b3 := by
  have h := fun i hi => readWord_lane [(0, b0), (1, b1), (2, b2), (3, b3)] 0 i hi
  exact ⟨h 0 (by decide), h 1 (by decide), h 2 (by decide), h 3 (by decide)⟩

/-- Packing pads the last word with zero bytes (R88). -/
theorem wordBytes_packWords (b : Bytes) :
    ∃ n, n < 4 ∧ wordBytes (packWords b) = b ++ List.replicate n 0 := by
  induction b using packWords.induct with
  | case1 => exact ⟨0, by decide, rfl⟩
  | case2 b0 => exact ⟨3, by decide, by simp [packWords, wordBytes, lanes_wordOfLanes, List.replicate]⟩
  | case3 b0 b1 => exact ⟨2, by decide, by simp [packWords, wordBytes, lanes_wordOfLanes, List.replicate]⟩
  | case4 b0 b1 b2 => exact ⟨1, by decide, by simp [packWords, wordBytes, lanes_wordOfLanes, List.replicate]⟩
  | case5 b0 b1 b2 b3 r ih =>
    obtain ⟨n, hn, h⟩ := ih
    refine ⟨n, hn, ?_⟩
    have hcons : wordBytes (packWords (b0 :: b1 :: b2 :: b3 :: r)) = b0 :: b1 :: b2 :: b3 :: wordBytes (packWords r) := by
      simp [packWords, wordBytes, lanes_wordOfLanes]
    rw [hcons, h]
    rfl

theorem store_append (m : Memory) (a : Nat) (x y : Bytes) :
    m.store a (x ++ y) = (m.store a x).store (a + x.length) y := by
  induction x generalizing m a with
  | nil => rfl
  | cons v x ih =>
    rw [List.cons_append, Memory.store, ih, List.length_cons, Nat.add_assoc, Nat.add_comm 1]
    rfl

theorem writeWords_length (off : Nat) (ws : List Word) : (writeWords off ws).length = ws.length := by
  induction ws generalizing off with
  | nil => rfl
  | cons v ws ih => rw [writeWords, List.length_cons, List.length_cons, ih]

/-- The writes of LOADB's words, on an idle block: each lands in the buffer, so together they store the
words' bytes. -/
theorem run_writeWords (buf : Buf) (ws : List Word) (off : Nat) (s : State) (rest : List PortEvent)
    (hb : s.blk.busy = false) (halign : off % 4 = 0) (hlo : bufOffset buf ≤ off)
    (hhi : off + 4 * ws.length ≤ bufOffset buf + bufCap buf)
    (hp : s.port = portLines Config.hw (writeWords off ws) ++ rest) :
    ∃ t, core.run ws.length s = .next t ∧ t.port = rest ∧
      t.blk = { s.blk with mem := s.blk.mem.store off (wordBytes ws) } := by
  induction ws generalizing off s with
  | nil => exact ⟨s, rfl, hp, rfl⟩
  | cons v ws ih =>
    rw [List.length_cons] at hhi
    obtain ⟨buf', ht⟩ := target_of_buffer_range (bufAt_isSome_of_range (off := off) buf hlo (by omega))
    have hend : bufOffset buf + bufCap buf ≤ 4096 := by cases buf <;> decide
    obtain ⟨u, hstep, huport, hublk⟩ : ∃ u, step s = .next u ∧
        u.port = portLines Config.hw (writeWords (off + 4) ws) ++ rest ∧
        u.blk = { s.blk with mem := s.blk.mem.writeWord off v } :=
      ⟨_, step_write s off v _ (by omega) halign hp, rfl, writeAt_idle_buf _ _ _ hb ht⟩
    obtain ⟨t, hrun, hport, hblk⟩ :=
      ih (off + 4) u (by rw [hublk]; exact hb) (by omega) (by omega) (by omega) huport
    refine ⟨t, by rw [List.length_cons, run_succ _ s _ hstep, hrun], hport, ?_⟩
    rw [hblk, hublk]
    rfl

/-- The ranges of two buffers do not meet (R32). -/
theorem bufs_disjoint {buf other : Buf} (h : other ≠ buf) :
    bufOffset other + bufCap other ≤ bufOffset buf ∨ bufOffset buf + bufCap buf ≤ bufOffset other := by
  revert h
  cases buf <;> cases other <;> decide

/-- Settles O56: the words' writes store the bytes and their padding (`run_writeWords`,
`wordBytes_packWords`), which stay inside the buffer; the last write sets the length. -/
theorem loadbLoadsTheOperand : Obligations.LoadbLoadsTheOperand := by
  intro s buf b rest hb hcap hp
  obtain ⟨pad, hpad, hbytes⟩ := wordBytes_packWords b
  obtain ⟨hoff, hcap4⟩ := buf_aligned buf
  have hcount : 4 * (packWords b).length = b.length + pad := by
    rw [← wordBytes_length, hbytes, List.length_append, List.length_replicate]
  have hsplit : s.port = portLines Config.hw (writeWords (bufOffset buf) (packWords b)) ++
      .access ⟨Config.hw.base + lenOffset buf, 32, .write (BitVec.ofNat 32 b.length)⟩ :: rest := by
    rw [hp]
    simp [portLines, loadb, hostAccess]
  obtain ⟨u, hu, huport, hublk⟩ := run_writeWords buf (packWords b) _ s _ hb hoff le_rfl (by omega) hsplit
  have hlenAddr : lenOffset buf < 4096 ∧ lenOffset buf % 4 = 0 := by cases buf <;> decide
  have hstep := step_write u (lenOffset buf) _ rest hlenAddr.1 hlenAddr.2 huport
  have hubusy : u.blk.busy = false := by rw [hublk]; exact hb
  have hulen : ∀ other, u.blk.lenOf other = s.blk.lenOf other := by
    rw [hublk]
    intro other
    cases other <;> rfl
  rw [writeAt_idle_len _ _ _ hubusy] at hstep
  have hlength : (loadb buf b).length = (packWords b).length + 1 := by
    rw [loadb, List.length_append, writeWords_length]
    rfl
  refine ⟨_, by rw [hlength, run_add _ 1 s u hu, run_succ 0 u _ hstep]; rfl, rfl, ?busy, ?bytes, ?len, ?others⟩
  case busy => simpa using hubusy
  case bytes =>
    apply List.ext_getElem (by simp)
    intro k hk hkb
    simp only [Block.bytes, List.getElem_map, List.getElem_range, Block.bufByte, setLen_mem, hublk]
    rw [readByte_store_inside _ _ _ _ (by rw [hbytes, List.length_append]; omega)]
    simp [hbytes, hkb]
  case len =>
    have hmax : bufCap buf ≤ 512 := by cases buf <;> decide
    simp only [setLen_lenOf, if_true, BitVec.toNat_setWidth, BitVec.toNat_ofNat]
    omega
  case others =>
    intro other hother
    refine ⟨by simp [hother, hulen], fun k hk => ?_⟩
    have hdisjoint := bufs_disjoint hother
    simp only [Block.bufByte, setLen_mem, hublk]
    exact readByte_store_outside _ _ _ _ (by rw [wordBytes_length]; omega)

/-! ## The first command after reset (R253) -/

/-- After reset every length is 0, so an operand passes exactly when no length is mandated. -/
theorem passes_issue_reset_iff (w : Word) (o : Buf × Nat) : (Block.reset.issue w).passes o ↔ o.2 = 0 := by
  have hlen : (Block.reset.lenOf o.1).toNat = 0 := congrArg BitVec.toNat (reset_lenOf o.1)
  simp only [Block.passes, issue_lenOf, hlen]
  omega

/-- Settles O57: the step is the command's `exec` on the issued reset block; its first mandated length is the
first check to fail (O13), and with none it ends by its primitives (O14). -/
theorem firstCommandAfterReset : Obligations.FirstCommandAfterReset := by
  intro i
  rw [fetchWordRunsNext State.reset i]
  have hpend : (Block.reset.issue (encode i)).pending := issue_pending _ _
  cases hfind : (operandRow i).find? (fun o => decide (0 < o.2)) with
  | some bad =>
    obtain ⟨hbad, before, after, hrow, hbefore⟩ := List.find?_eq_some_iff_append.1 hfind
    obtain ⟨t, ht, hfailed⟩ := firstBadOperandEndsLength i { State.reset with blk := Block.reset.issue (encode i) }
      before after bad hpend rfl hrow (fun o ho => (passes_issue_reset_iff _ o).2 (by simpa using hbefore o ho))
      (by rw [passes_issue_reset_iff]; simpa [Nat.pos_iff_ne_zero] using hbad)
    refine ⟨t, ht, hfailed.err, hfailed.errcode, ?_, hfailed.outLen⟩
    rw [hfailed.errop]
    cases bad.1 <;> rfl
  | none =>
    have hzero : ∀ o ∈ operandRow i, o.2 = 0 := by simpa using hfind
    obtain ⟨t, ht, hend⟩ := missingPrimitiveEndsPrim i { State.reset with blk := Block.reset.issue (encode i) }
      hpend rfl fun o ho => (passes_issue_reset_iff _ o).2 (hzero o ho)
    refine ⟨t, ht, ?_⟩
    cases hmissing : (primRow i).find? (fun p => !Config.hw.avail.has p) with
    | none =>
      have hall : (primRow i).all Config.hw.avail.has = true := by simpa using hmissing
      rw [hmissing] at hend
      obtain ⟨r, hlen, hsucceeded⟩ := hend
      rw [hall]
      exact ⟨hsucceeded.err, hsucceeded.errcode, hsucceeded.outLen.trans hlen⟩
    | some p =>
      have hall : ¬ (primRow i).all Config.hw.avail.has = true := by
        intro hall
        have hp := List.find?_some hmissing
        rw [List.all_eq_true.1 hall p (List.mem_of_find?_eq_some hmissing)] at hp
        cases hp
      have hfailed : ∃ info, Failed { State.reset with blk := Block.reset.issue (encode i) } t 3 info := by
        rw [hmissing] at hend
        cases p <;> exact ⟨_, hend⟩
      obtain ⟨info, hfailed⟩ := hfailed
      simp only [hall]
      exact ⟨hfailed.err, hfailed.errcode, by rw [hfailed.fatal]; simp, hfailed.outLen⟩

end Sys2Proof.Machine
end

section
/-! PROOF. The parity expander and the password commands of MS-CHAPv1 (spec 40_stream_and_parity.md R113,
42_mschapv1.md R140 to R149): what PEXP, LM_CHRESP and NT_CHRESP answer on operands that pass, and which
passwords LM_HASH and NT_HASH cannot tell apart. -/

namespace Sys2Proof.Machine

/-! ## Commands on operands that pass -/

/-- R113 past its operand. -/
theorem cmdPexp_eq (b : Block) {k : BytesN 7} (hk : b.need .kin 7 = .ok k) : cmdPexp b = .ok (par k).toList := by
  rw [cmdPexp, hk]
  rfl

/-- Settles O15: the operand passes, PEXP needs no primitive, and `par` is the closed form (`isPar_par`). -/
theorem pexpExpandsTheKey : Obligations.PexpExpandsTheKey := by
  intro s hp hf hlo hhi k hk
  refine ⟨_, exec_eq_complete .pexp s, par k, isPar_par k, ?_⟩
  rw [cmdOf, cmdPexp_eq s.blk (need_eq_ok_of_toList s.blk .kin 7 k hk hlo hhi)]
  exact complete_succeeded s _ hp hf (by simp [outCap])

section
variable (c : Config) (b : Block) {ch : BytesN 8} {p : Bytes}
  (hch : b.need .chal 8 = .ok ch) (hp : b.var .pw = .ok p)
include hch hp

/-- R148 past its operands. -/
theorem cmdLmChresp_eq : cmdLmChresp c b =
    if c.avail.des = true then .ok (chresp c ch (lmhash c p)).toList else .error (.prim .des) := by
  have hdes : require c [.des] = if c.avail.des = true then .ok () else .error (.prim .des) :=
    require_singleton c .des
  simp only [cmdLmChresp, hch, hp, hdes]
  split
  · rfl
  · rfl

/-- R149 past its operands. -/
theorem cmdNtChresp_eq : cmdNtChresp c b =
    if c.avail.md4 = false then .error (.prim .md4)
    else if c.avail.des = false then .error (.prim .des)
    else .ok (chresp c ch (nthash c p)).toList := by
  have hprims : require c [.md4, .des] = if c.avail.md4 = false then .error (.prim .md4)
      else if c.avail.des = false then .error (.prim .des) else .ok () := by
    rw [require_cons c .md4 _ rfl rfl, require_cons c .des _ rfl rfl]
    rfl
  simp only [cmdNtChresp, hch, hp, hprims]
  split
  · rfl
  · split
    · rfl
    · rfl

end

/-- Settles O20: the command splits on DES alone (`cmdLmChresp_eq`), and its response is that of R143 under
the LM hash (`isLmHash_lmhash`, `isChresp_chresp`). -/
theorem lmChrespUsesLmHash : Obligations.LmChrespUsesLmHash := by
  intro s hp hf hlo hhi hpwLen ch hch
  have hneed := need_eq_ok_of_toList s.blk .chal 8 ch hch hlo hhi
  have hpw := var_eq_ok_bytes s.blk .pw hpwLen
  refine ⟨_, exec_eq_complete .lmChresp s, ?_⟩
  rw [cmdOf, cmdLmChresp_eq Config.hw s.blk hneed hpw]
  split
  · exact ⟨_, _, isLmHash_lmhash _ _, isChresp_chresp _ _ _, complete_succeeded s _ hp hf (by simp [outCap])⟩
  · exact complete_failed s (.prim .des) hp hf

/-- Settles O21: the command splits on MD4 and DES by their ids (`cmdNtChresp_eq`), and its response is that
of R143 under the NT hash (`isChresp_chresp`). -/
theorem ntChrespUsesNtHash : Obligations.NtChrespUsesNtHash := by
  intro s hp hf hlo hhi hpwLen ch hch
  have hneed := need_eq_ok_of_toList s.blk .chal 8 ch hch hlo hhi
  have hpw := var_eq_ok_bytes s.blk .pw hpwLen
  refine ⟨_, exec_eq_complete .ntChresp s, ?_⟩
  rw [cmdOf, cmdNtChresp_eq Config.hw s.blk hneed hpw]
  split
  · exact complete_failed s (.prim .md4) hp hf
  · split
    · exact complete_failed s (.prim .des) hp hf
    · exact ⟨_, isChresp_chresp _ _ _, complete_succeeded s _ hp hf (by simp [outCap])⟩

/-! ## What the LM hash does not see (R140, R144) -/

/-- UPC on one byte (R140). -/
def raise (x : Byte) : Byte := if 0x61 ≤ x.toNat ∧ x.toNat ≤ 0x7A then x - 0x20 else x

theorem upc_eq_map_raise (b : Bytes) : upc b = b.map raise := rfl

theorem raise_sub (x : Byte) (hlo : 0x61 ≤ x.toNat) (hhi : x.toNat ≤ 0x7A) : raise (x - 0x20) = raise x := by
  have hupper : ¬ (0x61 ≤ (x - 0x20).toNat ∧ (x - 0x20).toNat ≤ 0x7A) := by bv_omega
  simp only [raise, if_neg hupper, if_pos (And.intro hlo hhi)]

/-- A byte of the 14-byte password buffer: past the password it is the padding, 0 (R140). -/
theorem lm14_getD (pw : Bytes) (k : Nat) (hk : k < 14) : (lm14 pw).toList.getD k 0 = raise (pw.getD k 0) := by
  have hbuffer : (lm14 pw).toList = (upc pw ++ List.replicate 14 0).take 14 := rfl
  rw [hbuffer, upc_eq_map_raise, List.getD_eq_getElem?_getD, List.getElem?_take_of_lt hk, List.getD_eq_getElem?_getD]
  by_cases h : k < pw.length
  · simp [List.getElem?_append_left, h]
  · have hpad : k - pw.length < 14 := by omega
    rw [List.getElem?_append_right (by simpa using h), List.length_map, List.getElem?_replicate, if_pos hpad,
      List.getElem?_eq_none (l := pw) (by omega)]
    rfl

/-- Passwords whose first 14 bytes agree but for case have one LM hash. -/
theorem lmhash_congr (c : Config) (p q : Bytes) (h : ∀ k, k < 14 → raise (p.getD k 0) = raise (q.getD k 0)) :
    lmhash c p = lmhash c q := by
  have hbuffer : lm14 p = lm14 q := by
    have hlen : ∀ pw, (lm14 pw).toList.length = 14 := fun pw => by simp
    apply List.Vector.toList_injective
    apply List.ext_getElem (by rw [hlen, hlen])
    intro k hk hk'
    have hbyte := h k (hlen p ▸ hk)
    rw [← lm14_getD p k (hlen p ▸ hk), ← lm14_getD q k (hlen p ▸ hk)] at hbyte
    rwa [List.getD_eq_getElem _ _ hk, List.getD_eq_getElem _ _ hk'] at hbyte
  rw [lmhash, lmhash, hbuffer]

theorem bytes_getD (b : Block) (buf : Buf) (n k : Nat) :
    (b.bytes buf n).getD k 0 = if k < n then b.bufByte buf k else 0 := by
  split
  · next h => simp [Block.bytes, h]
  · next h => simp [Block.bytes, h]

/-- Settles O34: the two passwords have one LM hash (`lmhash_congr`), so the commands give one answer
(`cmdLmHash_eq`), and that gives one outcome (`Block.SameOutcome.finish`). -/
theorem lmHashIgnoresCaseAndTail : Obligations.LmHashIgnoresCaseAndTail := by
  intro s1 s2 t1 t2 hp1 hp2 hf hlen1 hlen2 hlens hbytes hexec1 hexec2
  have hhash : lmhash Config.hw (s1.blk.bytes .pw s1.blk.pwLen.toNat) =
      lmhash Config.hw (s2.blk.bytes .pw s2.blk.pwLen.toNat) := by
    apply lmhash_congr
    intro k hk
    have hboth : k < s1.blk.pwLen.toNat ↔ k < s2.blk.pwLen.toNat := by
      obtain heq | ⟨h1, h2⟩ := hlens
      · rw [heq]
      · omega
    rw [bytes_getD, bytes_getD]
    simp only [← hboth]
    split
    · next hin =>
      obtain heq | ⟨hlo, hhi, hraised⟩ := hbytes k hk hin
      · rw [heq]
      · rw [hraised, raise_sub _ hlo hhi]
    · rfl
  have hanswer : cmdOf Config.hw .lmHash s1.blk = cmdOf Config.hw .lmHash s2.blk := by
    rw [cmdOf, cmdLmHash_eq _ _ hlen1, cmdLmHash_eq _ _ hlen2, hhash]
  have hout := (sameOutcome_of_pending hp1 hp2 hf).finish (cmdOf Config.hw .lmHash s1.blk)
  rw [eq_complete_of_exec hexec1, eq_complete_of_exec hexec2, ← hanswer]
  exact ⟨hout.out, hout.outLen, hout.errcode⟩

/-! ## The NT hash of the NT hash (R145) -/

/-- A result read back byte by byte. -/
theorem bytes_eq_of_succeeded {s t : State} {r : Bytes} (h : Succeeded s t r) (b : Block) (buf : Buf)
    (hbytes : ∀ k, k < r.length → b.bufByte buf k = t.blk.outByte k) : b.bytes buf r.length = r := by
  apply List.ext_getElem (by simp)
  intro k _ hk
  rw [← h.result k hk, ← hbytes k hk]
  simp [Block.bytes]

/-- Settles O35: where MD4 is missing both commands answer PRIM; where it is not, the second password is the
first one's digest (`bytes_eq_of_succeeded`), and its MD4 is the hash-hash by definition. -/
theorem ntHashOfNtHashIsHashHash : Obligations.NtHashOfNtHashIsHashHash := by
  intro s1 s2 t1 t2 u hp1 hp2 hf1 hf2 hlen1 hlen2 hexec1 hpw hexec2 hexecU
  have hanswer : cmdOf Config.hw .ntHash s2.blk = cmdOf Config.hw .ntHashHash s1.blk := by
    have ht1 := eq_complete_of_exec hexec1
    rw [cmdOf, cmdNtHash_eq _ _ hlen1] at ht1
    rw [cmdOf, cmdOf, cmdNtHash_eq _ _ (hlen2.trans_le (by decide)), cmdNtHashHash_eq _ _ hlen1]
    split
    · next hmd4 =>
      rw [if_pos hmd4] at ht1
      have hdigest := complete_succeeded s1 (nthash Config.hw (s1.blk.bytes .pw s1.blk.pwLen.toNat)).toList
        hp1 hf1 (by simp [outCap])
      rw [← ht1] at hdigest
      have hbytes := bytes_eq_of_succeeded hdigest s2.blk .pw (by simpa using hpw)
      rw [List.Vector.toList_length] at hbytes
      rw [hlen2, hbytes]
      rfl
    · rfl
  have hout := (sameOutcome_of_pending hp2 hp1 (hf2.trans hf1.symm)).finish (cmdOf Config.hw .ntHash s2.blk)
  rw [eq_complete_of_exec hexec2, eq_complete_of_exec hexecU, ← hanswer]
  exact hout.out

end Sys2Proof.Machine
end

section
/-! PROOF. The keys of MPPE (spec 43_mschapv1_mppe.md R161 to R168, 45_mschapv2_mppe.md R201 to R206):
GetKey over the initial key and the current key, the weak keys and the 128-bit key built on it, and the
relations between commands that cut one computation in two ways. -/

namespace Sys2Proof.Machine

/-! ## GetKey and its current key (R161, R162) -/

theorem getkey_toList (c : Config) (k16 : Bool) (ik ck : BytesN (keyLen k16)) :
    (getkey c k16 ik ck).toList = getKeyBytes c ik.toList ck.toList (keyLen k16) := by
  rw [getKeyBytes, take_toList, take_toList]
  rfl

/-- The current key of a command: CURKEY where CKP = 1, otherwise the initial key (R162, log 23). -/
theorem currentKey_eq_ok (b : Block) (ckp : Bool) (n : Nat)
    (h : ckp = true → n ≤ b.ckLen.toNat ∧ b.ckLen.toNat ≤ 16) :
    ∃ ck, b.currentKey ckp n = .ok ck ∧
      ∀ ik : BytesN n, (ck.getD ik).toList = if ckp then b.bytes .curkey n else ik.toList := by
  cases ckp with
  | false => exact ⟨none, rfl, fun _ => rfl⟩
  | true =>
    obtain ⟨hlo, hhi⟩ := h rfl
    obtain ⟨ck, hck, hbytes⟩ := need_eq_ok_bytes b .curkey n hlo hhi
    exact ⟨some ck, congrArg (Except.map some) hck, fun _ => hbytes⟩

/-- R165 past its operands. -/
theorem cmdGetKey_eq (c : Config) (ckp k16 : Bool) (b : Block) {ik : BytesN (keyLen k16)}
    {ck : Option (BytesN (keyLen k16))} (hik : b.need .kin (keyLen k16) = .ok ik)
    (hck : b.currentKey ckp (keyLen k16) = .ok ck) : cmdGetKey c ckp k16 b =
    if c.avail.sha1 = true then .ok (getkey c k16 ik (ck.getD ik)).toList else .error (.prim .sha1) := by
  have hsha1 : require c [.sha1] = if c.avail.sha1 = true then .ok () else .error (.prim .sha1) :=
    require_singleton c .sha1
  simp only [cmdGetKey, hik, hck, hsha1]
  split
  · rfl
  · rfl

/-- Settles O23: both keys pass, the command splits on SHA1 alone (`cmdGetKey_eq`), and the key is the stream
and cut of R161 (`getkey_toList`) over KIN and the current key (`currentKey_eq_ok`). -/
theorem getKeyDerivesKey : Obligations.GetKeyDerivesKey := by
  intro ckp k16 s L hL hp hf hlo hhi hckLen
  obtain rfl : L = keyLen k16 := hL.trans (keyLen_eq_ite k16).symm
  obtain ⟨ik, hik, hikBytes⟩ := need_eq_ok_bytes s.blk .kin (keyLen k16) hlo hhi
  obtain ⟨ck, hck, hckBytes⟩ := currentKey_eq_ok s.blk ckp (keyLen k16) hckLen
  have hfits : keyLen k16 ≤ outCap := (keyLen_le k16).trans (by decide)
  refine ⟨_, exec_eq_complete (.getKey ckp k16) s, ?_⟩
  rw [cmdOf, cmdGetKey_eq Config.hw ckp k16 s.blk hik hck, ← hikBytes, ← hckBytes ik, ← getkey_toList]
  split
  · exact complete_succeeded s _ hp hf (by simpa using hfits)
  · exact complete_failed s (.prim .sha1) hp hf

/-! ## The weak keys (R163, R166, R167) -/

/-- What GET_KEY_40 and GET_KEY_56 share: GetKey of length 8 from the first 8 bytes of the LM hash. -/
def lmKey (c : Config) (ckp : Bool) (b : Block) : Except CmdError (BytesN 8) := do
  let pw ← b.var .pw
  let ck ← b.currentKey ckp 8
  require c [.des, .sha1]
  return getkey c false (takeN (lmhash c pw) 8) (ck.getD (takeN (lmhash c pw) 8))

theorem cmdGetKey40_eq_map (c : Config) (ckp : Bool) (b : Block) :
    cmdGetKey40 c ckp b = (fun k => (weak40 k).toList) <$> lmKey c ckp b := by
  simp only [cmdGetKey40, lmKey, map_bind, map_pure]

theorem cmdGetKey56_eq_map (c : Config) (ckp : Bool) (b : Block) :
    cmdGetKey56 c ckp b = (fun k => (weak56 k).toList) <$> lmKey c ckp b := by
  simp only [cmdGetKey56, lmKey, map_bind, map_pure]

/-- `require` goes by the primitives' ids, not by the order they are written in (R107). -/
theorem require_des_sha1 (c : Config) :
    require c [.des, .sha1] = if c.avail.sha1 = false then .error (.prim .sha1)
      else if c.avail.des = false then .error (.prim .des) else .ok () := by
  have hswap : require c [.des, .sha1] = require c [.sha1, .des] := by
    have hcontains : ∀ p, [Prim.des, .sha1].contains p = [Prim.sha1, .des].contains p := by
      intro p
      cases p <;> rfl
    simp only [require, hcontains]
  rw [hswap, require_cons c .sha1 _ rfl rfl, require_cons c .des _ rfl rfl]
  rfl

theorem lmKey_eq (c : Config) (ckp : Bool) (b : Block) {pw : Bytes} {ck : Option (BytesN 8)}
    (hpw : b.var .pw = .ok pw) (hck : b.currentKey ckp 8 = .ok ck) : lmKey c ckp b =
    if c.avail.sha1 = false then .error (.prim .sha1)
    else if c.avail.des = false then .error (.prim .des)
    else .ok (getkey c false (takeN (lmhash c pw) 8) (ck.getD (takeN (lmhash c pw) 8))) := by
  simp only [lmKey, hpw, hck, require_des_sha1]
  split
  · rfl
  · split
    · rfl
    · rfl

theorem weak40_toList (k : BytesN 8) : (weak40 k).toList = [0xD1, 0x26, 0x9E] ++ k.toList.drop 3 := by
  have hslice : (slice k 3 5).toList = k.toList.drop 3 := List.take_of_length_le (by simp)
  have hlead : w40.toList = [0xD1, 0x26, 0x9E] := by decide
  rw [← hslice, ← hlead]
  rfl

theorem weak56_toList (k : BytesN 8) : (weak56 k).toList = [0xD1] ++ k.toList.drop 1 := by
  have hslice : (slice k 1 7).toList = k.toList.drop 1 := List.take_of_length_le (by simp)
  have hlead : w56.toList = [0xD1] := by decide
  rw [← hslice, ← hlead]
  rfl

/-- Settles O24: both commands end as `lmKey` does, which splits on SHA1 and DES by their ids (`lmKey_eq`);
its key is that of R161 under the LM hash, and each command writes its leading bytes over it. -/
theorem weakKeysFromLmHash : Obligations.WeakKeysFromLmHash := by
  intro ckp s hp hf hpwLen hckLen
  have hpw := var_eq_ok_bytes s.blk .pw hpwLen
  obtain ⟨ck, hck, hckBytes⟩ := currentKey_eq_ok s.blk ckp 8 hckLen
  refine ⟨_, _, exec_eq_complete (.getKey40 ckp) s, exec_eq_complete (.getKey56 ckp) s, ?_⟩
  rw [cmdOf, cmdOf, cmdGetKey40_eq_map, cmdGetKey56_eq_map, lmKey_eq Config.hw ckp s.blk hpw hck]
  split
  · exact ⟨complete_failed s (.prim .sha1) hp hf, complete_failed s (.prim .sha1) hp hf⟩
  · split
    · exact ⟨complete_failed s (.prim .des) hp hf, complete_failed s (.prim .des) hp hf⟩
    · refine ⟨_, isLmHash_lmhash _ _, _, rfl, ?_⟩
      have hik : (takeN (lmhash Config.hw (s.blk.bytes .pw s.blk.pwLen.toNat)) 8).toList =
        (lmhash Config.hw (s.blk.bytes .pw s.blk.pwLen.toNat)).toList.take 8 := rfl
      have hkey := fun ik => getkey_toList Config.hw false ik (ck.getD ik)
      simp only [hckBytes] at hkey
      rw [← hik, ← hkey, ← weak40_toList, ← weak56_toList]
      exact ⟨complete_succeeded s _ hp hf (by simp [outCap]), complete_succeeded s _ hp hf (by simp [outCap])⟩

/-! ## The 128-bit key (R168) -/

/-- R168 past its operands. -/
theorem cmdGetKey128_eq (c : Config) (ckp : Bool) (b : Block) {ch : BytesN 8} {p : Bytes}
    {ck : Option (BytesN 16)} (hch : b.need .chal 8 = .ok ch) (hp : b.var .pw = .ok p)
    (hck : b.currentKey ckp 16 = .ok ck) : cmdGetKey128 c ckp b =
    if c.avail.md4 = false then .error (.prim .md4)
    else if c.avail.sha1 = false then .error (.prim .sha1)
    else .ok (getkey c true (startkey c ch (hashhash c p)) (ck.getD (startkey c ch (hashhash c p)))).toList := by
  simp only [cmdGetKey128, hch, hp, hck, require_md4_sha1]
  split
  · rfl
  · split
    · rfl
    · rfl

/-- Settles O25: the command splits on MD4 and SHA1 by their ids (`cmdGetKey128_eq`); its key is that of R161
(`getkey_toList`) under the start key of the hash-hash (`startkey_toList`). -/
theorem getKey128FromHashHash : Obligations.GetKey128FromHashHash := by
  intro ckp s hp hf hlo hhi hpwLen hckLen
  obtain ⟨ch, hch, hchBytes⟩ := need_eq_ok_bytes s.blk .chal 8 hlo hhi
  have hpw := var_eq_ok_bytes s.blk .pw hpwLen
  obtain ⟨ck, hck, hckBytes⟩ := currentKey_eq_ok s.blk ckp 16 fun h => ⟨(hckLen h).ge, (hckLen h).le⟩
  refine ⟨_, exec_eq_complete (.getKey128 ckp) s, ?_⟩
  rw [cmdOf, cmdGetKey128_eq Config.hw ckp s.blk hch hpw hck, ← hchBytes]
  split
  · exact complete_failed s (.prim .md4) hp hf
  · split
    · exact complete_failed s (.prim .sha1) hp hf
    · refine ⟨_, _, rfl, startkey_toList _ ch (hashhash _ _), ?_⟩
      have hkey := fun ik => getkey_toList Config.hw true ik (ck.getD ik)
      simp only [hckBytes] at hkey
      rw [← hkey]
      exact complete_succeeded s _ hp hf (by simp [outCap, keyLen])

/-! ## Two commands that cut one computation -/

/-- Commands that share a computation and differ in its last function fail alike, or give two results of one
value. -/
theorem finish_map_cases {α : Type} (b : Block) (x : Except CmdError α) (f g : α → Bytes) :
    (∃ e, b.finish (f <$> x) = b.completeError e ∧ b.finish (g <$> x) = b.completeError e) ∨
    ∃ a, b.finish (f <$> x) = b.completeOk (f a) ∧ b.finish (g <$> x) = b.completeOk (g a) := by
  unfold Block.finish
  split
  · exact .inl ⟨.fatal, rfl, rfl⟩
  · cases x with
    | error e => exact .inl ⟨e, rfl, rfl⟩
    | ok a => exact .inr ⟨a, rfl, rfl⟩

/-- Bytes written over the start of a string leave the rest of it. -/
theorem overwrite_getD (lead x : Bytes) (k : Nat) (d : Byte) (h : lead.length ≤ k) :
    (lead ++ x.drop lead.length).getD k d = x.getD k d := by
  rw [List.getD_append_right _ _ _ _ h, List.getD_eq_getElem?_getD, List.getElem?_drop, Nat.add_sub_cancel' h,
    List.getD_eq_getElem?_getD]

/-- Settles O32: both commands end as `lmKey` does (`finish_map_cases`), and from byte 3 on both results are
the key itself (`overwrite_getD`). -/
theorem weakKeysAgreeFromByteThree : Obligations.WeakKeysAgreeFromByteThree := by
  intro ckp s t u _ hexec40 hexec56
  have ht := eq_complete_of_exec hexec40
  have hu := eq_complete_of_exec hexec56
  rw [cmdOf, cmdGetKey40_eq_map] at ht
  rw [cmdOf, cmdGetKey56_eq_map] at hu
  rw [ht, hu, complete_blk, complete_blk]
  obtain ⟨e, h40, h56⟩ | ⟨key, h40, h56⟩ := finish_map_cases s.blk (lmKey Config.hw ckp s.blk)
    (fun k => (weak40 k).toList) fun k => (weak56 k).toList
  · rw [h40, h56]
    exact ⟨rfl, rfl, fun _ _ _ => rfl⟩
  · rw [h40, h56]
    refine ⟨rfl, by simp, fun k hlo _ => ?_⟩
    have hfrom3 := overwrite_getD [0xD1, 0x26, 0x9E] key.toList k (s.blk.outByte k) hlo
    have hfrom1 := overwrite_getD [0xD1] key.toList k (s.blk.outByte k) (Nat.le_of_succ_le (Nat.le_of_succ_le hlo))
    rw [completeOk_outByte, completeOk_outByte, weak40_toList, weak56_toList]
    exact hfrom3.trans hfrom1.symm

/-- What the two GET_SESSION_KEYS share: their operands, past the checks (R203). -/
def sessionOperands (c : Config) (b : Block) : Except CmdError (Bytes × BytesN 24) := do
  let p ← b.var .pw
  let nr ← b.need .ntresp 24
  require c [.md4, .sha1]
  return (p, nr)

theorem cmdGetSessionKeys64_eq_map (c : Config) (b : Block) :
    cmdGetSessionKeys64 c b = (fun x => (sessionkeys c false x.1 x.2).toList) <$> sessionOperands c b := by
  simp only [cmdGetSessionKeys64, sessionOperands, map_bind, map_pure]

theorem cmdGetSessionKeys128_eq_map (c : Config) (b : Block) :
    cmdGetSessionKeys128 c b = (fun x => (sessionkeys c true x.1 x.2).toList) <$> sessionOperands c b := by
  simp only [cmdGetSessionKeys128, sessionOperands, map_bind, map_pure]

/-- The short key is the first half of the long one (R202). -/
theorem asymkey_short (c : Config) (mk : BytesN 16) (isSend isServer : Bool) :
    (asymkey c mk false isSend isServer).toList = (asymkey c mk true isSend isServer).toList.take 8 := by
  rw [asymkey_toList, asymkey_toList, asymKeyBytes, asymKeyBytes, List.take_take]
  rfl

/-- The halves of two strings of 16 bytes, side by side. -/
theorem take_append_take_getD (x y : BytesN 16) (d : Byte) (k : Nat) (hk : k < 8) :
    (x.toList.take 8 ++ y.toList.take 8).getD k d = (x.toList ++ y.toList).getD k d ∧
    (x.toList.take 8 ++ y.toList.take 8).getD (8 + k) d = (x.toList ++ y.toList).getD (16 + k) d := by
  have hx : k < 16 := by omega
  constructor
  · simp [List.getD_eq_getElem?_getD, List.getElem?_append_left, hk, hx]
  · simp [List.getD_eq_getElem?_getD, List.getElem?_append_right, hk, hx]

/-- Settles O33: both commands end as `sessionOperands` does (`finish_map_cases`), and the short result is
the halves of the long one's keys (`asymkey_short`); an error leaves the zeros of the issue. -/
theorem shortSessionKeysArePrefixes : Obligations.ShortSessionKeysArePrefixes := by
  intro s t u hp hexec64 hexec128 k hk
  have ht := eq_complete_of_exec hexec64
  have hu := eq_complete_of_exec hexec128
  rw [cmdOf, cmdGetSessionKeys64_eq_map] at ht
  rw [cmdOf, cmdGetSessionKeys128_eq_map] at hu
  obtain ⟨-, -, -, -, -, -, hout⟩ := hp
  have hzero : ∀ n, n < 32 → s.blk.outByte n = 0 := fun n hn => hout n (hn.trans (by decide))
  rw [ht, hu, complete_blk, complete_blk]
  obtain ⟨e, h64, h128⟩ | ⟨⟨p, nr⟩, h64, h128⟩ := finish_map_cases s.blk (sessionOperands Config.hw s.blk)
    (fun x => (sessionkeys Config.hw false x.1 x.2).toList) fun x => (sessionkeys Config.hw true x.1 x.2).toList
  · rw [h64, h128]
    exact ⟨rfl, (hzero (8 + k) (by omega)).trans (hzero (16 + k) (by omega)).symm⟩
  · have hkeys : ∀ k16, (sessionkeys Config.hw k16 p nr).toList =
        (asymkey Config.hw (masterkey Config.hw (hashhash Config.hw p) nr) k16 true true).toList ++
          (asymkey Config.hw (masterkey Config.hw (hashhash Config.hw p) nr) k16 false true).toList := fun _ => rfl
    rw [h64, h128]
    simp only [completeOk_outByte, hkeys, asymkey_short, hzero k (by omega), hzero (8 + k) (by omega),
      hzero (16 + k) (by omega)]
    exact take_append_take_getD _ _ 0 k hk

/-! ## The two flags of the asymmetric key (R201, R205) -/

theorem asymMagic_not (isSend isServer : Bool) : asymMagic (!isSend) (!isServer) = asymMagic isSend isServer := by
  simp only [asymMagic, Bool.not_inj_iff]

/-- Settles O36: the flags enter through the magic alone, which sees whether they are equal
(`asymMagic_not`). -/
theorem asymKeySeesOnlyEquality : Obligations.AsymKeySeesOnlyEquality := by
  intro send server k16 s
  simp only [exec_eq_complete, cmdOf, cmdGetAsymStartKey, asymkey, asymMagic_not]

end Sys2Proof.Machine
end
